-- ==== Sys2Proof/Word.lean ====
section
/-! DEFINITION. The word types of the gr-guitar CORE (spec/00_scope.md R9, R10): samples and operands are 32-bit
words, command words 128 bits, response words 64 bits, and a transport's byte is 8 bits (spec/20_memory.md R69). -/

namespace Sys2Proof

/-- A binary32 pattern (R10, R82): a sample, a coefficient, a parameter, an intermediate value of the datapath. -/
abbrev F32 := BitVec 32

/-- A `u32` operand slot of a command word, as the host wrote it (R80, R82). -/
abbrev Word32 := BitVec 32

/-- A command word `W` (R80). -/
abbrev CommandWord := BitVec 128

/-- A response word `R` (R85). -/
abbrev ResponseWord := BitVec 64

/-- A byte of a transport that serialises a word (R69). -/
abbrev Byte := BitVec 8

end Sys2Proof
end

