-- ==== Sys2Proof/Syntax.lean ====
section
/-! DEFINITION. The command set (spec/30_encoding.md R80 to R83): one constructor of `Instr` per row of
spec/opcode_table.json, its operands as R82 reads them. -/

namespace Sys2Proof

/-- The six units, numbered in this order (spec/00_scope.md R5). -/
inductive UnitId
  | sec | shlf | wah | flng | dist | rvrb
  deriving DecidableEq, Repr

/-- A `mode` operand and the two Reverb mode registers: bit 0, 0 = preset, 1 = random (R82, R32). -/
inductive Mode
  | preset | random
  deriving DecidableEq, Repr

/-- The cause of an `ILLEGAL_COMMAND` response (spec/60_exceptions.md R223): why a word is no command. -/
inductive IllegalCause
  /-- Cause 1: `OPC` is not in the first column of R83. -/
  | opcode
  /-- Cause 2: `OPC` is defined, `UNIT` is not legal for it. -/
  | unit
  /-- Cause 3: a reserved field, an unused operand slot or a reserved operand bit is non-zero. -/
  | reserved
  deriving DecidableEq, Repr

/-- The 28 commands. A `count` is a mathematical integer (R10, R17), every other operand the whole 32-bit slot or its
one meaningful bit (R82). -/
inductive Instr
  /-- `PROC.SEC n` (R103). -/
  | procSec (n : Nat)
  /-- `PROC.SHLF n` (R128). -/
  | procShlf (n : Nat)
  /-- `PROC.WAH n [, sc]` (R145). -/
  | procWah (n : Nat) (sc : Bool)
  /-- `PROC.FLNG n` (R165). -/
  | procFlng (n : Nat)
  /-- `PROC.DIST n` (R186). -/
  | procDist (n : Nat)
  /-- `PROC.RVRB n` (R207). -/
  | procRvrb (n : Nat)
  /-- `SET_ENABLED.SHLF en` (R132). -/
  | setEnabledShlf (en : Bool)
  /-- `SET_ENABLED.WAH en` (R150). -/
  | setEnabledWah (en : Bool)
  /-- `SET_ENABLED.FLNG en` (R168). -/
  | setEnabledFlng (en : Bool)
  /-- `SET_ENABLED.DIST en` (R190). -/
  | setEnabledDist (en : Bool)
  /-- `SET_ENABLED.RVRB en` (R211). -/
  | setEnabledRvrb (en : Bool)
  /-- `SET_WET_GAMMA.FLNG g` (R167). -/
  | setWetGammaFlng (g : F32)
  /-- `SET_WET_GAMMA.DIST g` (R189). -/
  | setWetGammaDist (g : F32)
  /-- `SET_WET_GAMMA.RVRB g` (R210). -/
  | setWetGammaRvrb (g : F32)
  /-- `SET_LFO_FREQ.WAH v` (R149). -/
  | setLfoFreqWah (v : F32)
  /-- `SET_LFO_FREQ.FLNG v` (R166). -/
  | setLfoFreqFlng (v : F32)
  /-- `SET_TAPS.SEC ff_first, ff_last, fb_last` (R104). -/
  | setTapsSec (ffFirst ffLast fbLast : F32)
  /-- `RESET_HIST.SEC` (R105). -/
  | resetHistSec
  /-- `SET_TYPE.SHLF t` (R129). -/
  | setTypeShlf (t : Word32)
  /-- `SET_GAIN.SHLF g` (R130). -/
  | setGainShlf (g : F32)
  /-- `SET_CUTOFF.SHLF c` (R131). -/
  | setCutoffShlf (c : F32)
  /-- `SET_CUTOFF_MIN.WAH v` (R146). -/
  | setCutoffMinWah (v : F32)
  /-- `SET_CUTOFF_MAX.WAH v` (R147). -/
  | setCutoffMaxWah (v : F32)
  /-- `SET_DAMP.WAH v` (R148). -/
  | setDampWah (v : F32)
  /-- `SET_DIST_FUNC.DIST code` (R187). -/
  | setDistFuncDist (code : Word32)
  /-- `SET_BOOST.DIST b` (R188). -/
  | setBoostDist (b : F32)
  /-- `SET_COMB_MODE.RVRB m` (R208). -/
  | setCombModeRvrb (m : Mode)
  /-- `SET_AP_MODE.RVRB m` (R209). -/
  | setApModeRvrb (m : Mode)
  deriving DecidableEq, Repr

/-- The unit a command is addressed to: the `UNIT` field of its row in R83. -/
def Instr.unit : Instr → UnitId
  | .procSec _ => .sec
  | .procShlf _ => .shlf
  | .procWah _ _ => .wah
  | .procFlng _ => .flng
  | .procDist _ => .dist
  | .procRvrb _ => .rvrb
  | .setEnabledShlf _ => .shlf
  | .setEnabledWah _ => .wah
  | .setEnabledFlng _ => .flng
  | .setEnabledDist _ => .dist
  | .setEnabledRvrb _ => .rvrb
  | .setWetGammaFlng _ => .flng
  | .setWetGammaDist _ => .dist
  | .setWetGammaRvrb _ => .rvrb
  | .setLfoFreqWah _ => .wah
  | .setLfoFreqFlng _ => .flng
  | .setTapsSec _ _ _ => .sec
  | .resetHistSec => .sec
  | .setTypeShlf _ => .shlf
  | .setGainShlf _ => .shlf
  | .setCutoffShlf _ => .shlf
  | .setCutoffMinWah _ => .wah
  | .setCutoffMaxWah _ => .wah
  | .setDampWah _ => .wah
  | .setDistFuncDist _ => .dist
  | .setBoostDist _ => .dist
  | .setCombModeRvrb _ => .rvrb
  | .setApModeRvrb _ => .rvrb

/-- Whether a command is a `PROC` (format `P`, R81): the commands that touch the sample streams (R66). -/
def Instr.isProc : Instr → Bool
  | .procSec _ => true
  | .procShlf _ => true
  | .procWah _ _ => true
  | .procFlng _ => true
  | .procDist _ => true
  | .procRvrb _ => true
  | .setEnabledShlf _ => false
  | .setEnabledWah _ => false
  | .setEnabledFlng _ => false
  | .setEnabledDist _ => false
  | .setEnabledRvrb _ => false
  | .setWetGammaFlng _ => false
  | .setWetGammaDist _ => false
  | .setWetGammaRvrb _ => false
  | .setLfoFreqWah _ => false
  | .setLfoFreqFlng _ => false
  | .setTapsSec _ _ _ => false
  | .resetHistSec => false
  | .setTypeShlf _ => false
  | .setGainShlf _ => false
  | .setCutoffShlf _ => false
  | .setCutoffMinWah _ => false
  | .setCutoffMaxWah _ => false
  | .setDampWah _ => false
  | .setDistFuncDist _ => false
  | .setBoostDist _ => false
  | .setCombModeRvrb _ => false
  | .setApModeRvrb _ => false

end Sys2Proof
end

