-- ==== Sys2Proof/WellFormed.lean ====
section
/-! DEFINITION. Which terms of `Instr` are commands: a `count` operand is an unsigned 32-bit integer
(spec/30_encoding.md R82, spec/00_scope.md R17). Every other operand type holds exactly what its slot can carry. -/

namespace Sys2Proof

/-- A `count` fits its slot: `0 <= n <= 2^32 - 1` (R17). -/
abbrev countFits (n : Nat) : Prop := n < 2 ^ 32

/-- A term is a command of the block: every `count` operand fits. -/
def Instr.wf : Instr → Bool
  | .procSec n => decide (countFits n)
  | .procShlf n => decide (countFits n)
  | .procWah n _ => decide (countFits n)
  | .procFlng n => decide (countFits n)
  | .procDist n => decide (countFits n)
  | .procRvrb n => decide (countFits n)
  | .setEnabledShlf _ => true
  | .setEnabledWah _ => true
  | .setEnabledFlng _ => true
  | .setEnabledDist _ => true
  | .setEnabledRvrb _ => true
  | .setWetGammaFlng _ => true
  | .setWetGammaDist _ => true
  | .setWetGammaRvrb _ => true
  | .setLfoFreqWah _ => true
  | .setLfoFreqFlng _ => true
  | .setTapsSec _ _ _ => true
  | .resetHistSec => true
  | .setTypeShlf _ => true
  | .setGainShlf _ => true
  | .setCutoffShlf _ => true
  | .setCutoffMinWah _ => true
  | .setCutoffMaxWah _ => true
  | .setDampWah _ => true
  | .setDistFuncDist _ => true
  | .setBoostDist _ => true
  | .setCombModeRvrb _ => true
  | .setApModeRvrb _ => true

end Sys2Proof
end

