-- ==== Sys2Proof/Decode.lean ====
section
/-! DEFINITION. Decoding and encoding command words (spec/30_encoding.md R80 to R84, R88, R90; the order of the checks
is spec/60_exceptions.md R226), the opcode table of R83 as mask and match rows, and the byte order of a transport
(spec/20_memory.md R69). -/

namespace Sys2Proof

/-! ## The fields of a command word (R80) -/

/-- `OPC = W[127:120]`. -/
def opcField (w : CommandWord) : BitVec 8 := w.extractLsb' 120 8
/-- `UNIT = W[119:112]`. -/
def unitField (w : CommandWord) : BitVec 8 := w.extractLsb' 112 8
/-- `RSV = W[111:96]`. -/
def rsvField (w : CommandWord) : BitVec 16 := w.extractLsb' 96 16
/-- Operand slot `C = W[95:64]`. -/
def cField (w : CommandWord) : Word32 := w.extractLsb' 64 32
/-- Operand slot `B = W[63:32]`. -/
def bField (w : CommandWord) : Word32 := w.extractLsb' 32 32
/-- Operand slot `A = W[31:0]`. -/
def aField (w : CommandWord) : Word32 := w.extractLsb' 0 32

/-- The word with these fields (R80, R9: the first in the high bits). -/
def pack (opc unit : BitVec 8) (rsv : BitVec 16) (c b a : Word32) : CommandWord :=
  opc ++ unit ++ rsv ++ c ++ b ++ a

/-! ## Operand kinds with reserved bits (R82) -/

/-- Bits 31:1 of a `bool`, `mode` or `proc flags` operand, which must be zero. -/
def upperBitsZero (v : Word32) : Bool := v.extractLsb' 1 31 == 0#31

/-- Bit 0 of an operand slot. -/
def bitZero (v : Word32) : Bool := v.getLsbD 0

/-- A `bool` operand as the slot holds it. -/
def ofBool (b : Bool) : Word32 := if b then 1#32 else 0#32

/-- A `mode` operand: bit 0, 0 = preset, 1 = random. -/
def modeOf (v : Word32) : Mode := if bitZero v then .random else .preset

/-- A mode as the slot holds it. -/
def ofMode : Mode → Word32
  | .preset => 0#32
  | .random => 1#32

/-! ## The four formats (R81): an unused slot, `RSV` and every reserved operand bit must be zero, else cause 3 -/

/-- Format `N`. -/
def formatN (i : Instr) (w : CommandWord) : Except IllegalCause Instr :=
  if rsvField w = 0#16 ∧ aField w = 0#32 ∧ bField w = 0#32 ∧ cField w = 0#32 then .ok i else .error .reserved

/-- Format `V` with a whole 32-bit operand. -/
def formatV (mk : Word32 → Instr) (w : CommandWord) : Except IllegalCause Instr :=
  if rsvField w = 0#16 ∧ bField w = 0#32 ∧ cField w = 0#32 then .ok (mk (aField w)) else .error .reserved

/-- Format `V` with a `bool` operand. -/
def formatVBool (mk : Bool → Instr) (w : CommandWord) : Except IllegalCause Instr :=
  if rsvField w = 0#16 ∧ upperBitsZero (aField w) ∧ bField w = 0#32 ∧ cField w = 0#32 then
    .ok (mk (bitZero (aField w)))
  else .error .reserved

/-- Format `V` with a `mode` operand. -/
def formatVMode (mk : Mode → Instr) (w : CommandWord) : Except IllegalCause Instr :=
  if rsvField w = 0#16 ∧ upperBitsZero (aField w) ∧ bField w = 0#32 ∧ cField w = 0#32 then
    .ok (mk (modeOf (aField w)))
  else .error .reserved

/-- Format `T`. -/
def formatT (mk : Word32 → Word32 → Word32 → Instr) (w : CommandWord) : Except IllegalCause Instr :=
  if rsvField w = 0#16 then .ok (mk (aField w) (bField w) (cField w)) else .error .reserved

/-- Format `P` of a unit without side-chain: all of `B`, the `SC` bit included, must be zero (R88). -/
def formatP (mk : Nat → Instr) (w : CommandWord) : Except IllegalCause Instr :=
  if rsvField w = 0#16 ∧ bField w = 0#32 ∧ cField w = 0#32 then .ok (mk (aField w).toNat) else .error .reserved

/-- Format `P` of `WAH`: `B[0]` is `SC`. -/
def formatPSc (mk : Nat → Bool → Instr) (w : CommandWord) : Except IllegalCause Instr :=
  if rsvField w = 0#16 ∧ upperBitsZero (bField w) ∧ cField w = 0#32 then
    .ok (mk (aField w).toNat (bitZero (bField w)))
  else .error .reserved

/-! ## The decoder -/

/-- The command a word encodes, or why it encodes none. `OPC` is looked up first, then `UNIT` (R84), then the
must-be-zero bits are checked: the order of R226 (1) to (3). -/
def decode (w : CommandWord) : Except IllegalCause Instr :=
  match opcField w with
  | 0x01#8 =>
    match unitField w with
    | 0#8 => formatP .procSec w
    | 1#8 => formatP .procShlf w
    | 2#8 => formatPSc .procWah w
    | 3#8 => formatP .procFlng w
    | 4#8 => formatP .procDist w
    | 5#8 => formatP .procRvrb w
    | _ => .error .unit
  | 0x02#8 =>
    match unitField w with
    | 1#8 => formatVBool .setEnabledShlf w
    | 2#8 => formatVBool .setEnabledWah w
    | 3#8 => formatVBool .setEnabledFlng w
    | 4#8 => formatVBool .setEnabledDist w
    | 5#8 => formatVBool .setEnabledRvrb w
    | _ => .error .unit
  | 0x03#8 =>
    match unitField w with
    | 3#8 => formatV .setWetGammaFlng w
    | 4#8 => formatV .setWetGammaDist w
    | 5#8 => formatV .setWetGammaRvrb w
    | _ => .error .unit
  | 0x04#8 =>
    match unitField w with
    | 2#8 => formatV .setLfoFreqWah w
    | 3#8 => formatV .setLfoFreqFlng w
    | _ => .error .unit
  | 0x10#8 => if unitField w = 0#8 then formatT .setTapsSec w else .error .unit
  | 0x11#8 => if unitField w = 0#8 then formatN .resetHistSec w else .error .unit
  | 0x20#8 => if unitField w = 1#8 then formatV .setTypeShlf w else .error .unit
  | 0x21#8 => if unitField w = 1#8 then formatV .setGainShlf w else .error .unit
  | 0x22#8 => if unitField w = 1#8 then formatV .setCutoffShlf w else .error .unit
  | 0x30#8 => if unitField w = 2#8 then formatV .setCutoffMinWah w else .error .unit
  | 0x31#8 => if unitField w = 2#8 then formatV .setCutoffMaxWah w else .error .unit
  | 0x32#8 => if unitField w = 2#8 then formatV .setDampWah w else .error .unit
  | 0x50#8 => if unitField w = 4#8 then formatV .setDistFuncDist w else .error .unit
  | 0x51#8 => if unitField w = 4#8 then formatV .setBoostDist w else .error .unit
  | 0x60#8 => if unitField w = 5#8 then formatVMode .setCombModeRvrb w else .error .unit
  | 0x61#8 => if unitField w = 5#8 then formatVMode .setApModeRvrb w else .error .unit
  | _ => .error .opcode

/-! ## The encoder, from the same tables (R80 to R83) -/

/-- The `UNIT` number of a unit (R80). -/
def unitCode : UnitId → BitVec 8
  | .sec => 0#8
  | .shlf => 1#8
  | .wah => 2#8
  | .flng => 3#8
  | .dist => 4#8
  | .rvrb => 5#8

/-- The `OPC` of a command: the first column of R83. -/
def opcode : Instr → BitVec 8
  | .procSec _ => 0x01#8
  | .procShlf _ => 0x01#8
  | .procWah _ _ => 0x01#8
  | .procFlng _ => 0x01#8
  | .procDist _ => 0x01#8
  | .procRvrb _ => 0x01#8
  | .setEnabledShlf _ => 0x02#8
  | .setEnabledWah _ => 0x02#8
  | .setEnabledFlng _ => 0x02#8
  | .setEnabledDist _ => 0x02#8
  | .setEnabledRvrb _ => 0x02#8
  | .setWetGammaFlng _ => 0x03#8
  | .setWetGammaDist _ => 0x03#8
  | .setWetGammaRvrb _ => 0x03#8
  | .setLfoFreqWah _ => 0x04#8
  | .setLfoFreqFlng _ => 0x04#8
  | .setTapsSec _ _ _ => 0x10#8
  | .resetHistSec => 0x11#8
  | .setTypeShlf _ => 0x20#8
  | .setGainShlf _ => 0x21#8
  | .setCutoffShlf _ => 0x22#8
  | .setCutoffMinWah _ => 0x30#8
  | .setCutoffMaxWah _ => 0x31#8
  | .setDampWah _ => 0x32#8
  | .setDistFuncDist _ => 0x50#8
  | .setBoostDist _ => 0x51#8
  | .setCombModeRvrb _ => 0x60#8
  | .setApModeRvrb _ => 0x61#8

/-- The operand slots `(A, B, C)` of a command (R81, R82). -/
def operandSlots : Instr → Word32 × Word32 × Word32
  | .procSec n => (BitVec.ofNat 32 n, 0#32, 0#32)
  | .procShlf n => (BitVec.ofNat 32 n, 0#32, 0#32)
  | .procWah n sc => (BitVec.ofNat 32 n, ofBool sc, 0#32)
  | .procFlng n => (BitVec.ofNat 32 n, 0#32, 0#32)
  | .procDist n => (BitVec.ofNat 32 n, 0#32, 0#32)
  | .procRvrb n => (BitVec.ofNat 32 n, 0#32, 0#32)
  | .setEnabledShlf en => (ofBool en, 0#32, 0#32)
  | .setEnabledWah en => (ofBool en, 0#32, 0#32)
  | .setEnabledFlng en => (ofBool en, 0#32, 0#32)
  | .setEnabledDist en => (ofBool en, 0#32, 0#32)
  | .setEnabledRvrb en => (ofBool en, 0#32, 0#32)
  | .setWetGammaFlng g => (g, 0#32, 0#32)
  | .setWetGammaDist g => (g, 0#32, 0#32)
  | .setWetGammaRvrb g => (g, 0#32, 0#32)
  | .setLfoFreqWah v => (v, 0#32, 0#32)
  | .setLfoFreqFlng v => (v, 0#32, 0#32)
  | .setTapsSec ffFirst ffLast fbLast => (ffFirst, ffLast, fbLast)
  | .resetHistSec => (0#32, 0#32, 0#32)
  | .setTypeShlf t => (t, 0#32, 0#32)
  | .setGainShlf g => (g, 0#32, 0#32)
  | .setCutoffShlf c => (c, 0#32, 0#32)
  | .setCutoffMinWah v => (v, 0#32, 0#32)
  | .setCutoffMaxWah v => (v, 0#32, 0#32)
  | .setDampWah v => (v, 0#32, 0#32)
  | .setDistFuncDist code => (code, 0#32, 0#32)
  | .setBoostDist b => (b, 0#32, 0#32)
  | .setCombModeRvrb m => (ofMode m, 0#32, 0#32)
  | .setApModeRvrb m => (ofMode m, 0#32, 0#32)

/-- The word of a command. -/
def encode (i : Instr) : CommandWord :=
  pack (opcode i) (unitCode i.unit) 0#16 (operandSlots i).2.2 (operandSlots i).2.1 (operandSlots i).1

/-! ## The opcode table of R83, row by row as spec/opcode_table.json writes it -/

/-- One row: a word `W` is its legal command exactly when `W & mask = pattern` (R83). -/
structure OpcodeRow where
  mask : CommandWord
  pattern : CommandWord
  deriving DecidableEq, Repr

/-- A word is the legal command of a row. -/
def OpcodeRow.accepts (r : OpcodeRow) (w : CommandWord) : Bool := w &&& r.mask == r.pattern

/-- The rows of unit `SEC`. -/
def opcodeTableSec : List OpcodeRow :=
  [ ⟨0xFFFFFFFFFFFFFFFFFFFFFFFF00000000, 0x01000000000000000000000000000000⟩  -- PROC.SEC
  , ⟨0xFFFFFFFF000000000000000000000000, 0x10000000000000000000000000000000⟩  -- SET_TAPS.SEC
  , ⟨0xFFFFFFFFFFFFFFFFFFFFFFFFFFFFFFFF, 0x11000000000000000000000000000000⟩  -- RESET_HIST.SEC
  ]

/-- The rows of unit `SHLF`. -/
def opcodeTableShlf : List OpcodeRow :=
  [ ⟨0xFFFFFFFFFFFFFFFFFFFFFFFF00000000, 0x01010000000000000000000000000000⟩  -- PROC.SHLF
  , ⟨0xFFFFFFFFFFFFFFFFFFFFFFFFFFFFFFFE, 0x02010000000000000000000000000000⟩  -- SET_ENABLED.SHLF
  , ⟨0xFFFFFFFFFFFFFFFFFFFFFFFF00000000, 0x20010000000000000000000000000000⟩  -- SET_TYPE.SHLF
  , ⟨0xFFFFFFFFFFFFFFFFFFFFFFFF00000000, 0x21010000000000000000000000000000⟩  -- SET_GAIN.SHLF
  , ⟨0xFFFFFFFFFFFFFFFFFFFFFFFF00000000, 0x22010000000000000000000000000000⟩  -- SET_CUTOFF.SHLF
  ]

/-- The rows of unit `WAH`. -/
def opcodeTableWah : List OpcodeRow :=
  [ ⟨0xFFFFFFFFFFFFFFFFFFFFFFFE00000000, 0x01020000000000000000000000000000⟩  -- PROC.WAH
  , ⟨0xFFFFFFFFFFFFFFFFFFFFFFFFFFFFFFFE, 0x02020000000000000000000000000000⟩  -- SET_ENABLED.WAH
  , ⟨0xFFFFFFFFFFFFFFFFFFFFFFFF00000000, 0x04020000000000000000000000000000⟩  -- SET_LFO_FREQ.WAH
  , ⟨0xFFFFFFFFFFFFFFFFFFFFFFFF00000000, 0x30020000000000000000000000000000⟩  -- SET_CUTOFF_MIN.WAH
  , ⟨0xFFFFFFFFFFFFFFFFFFFFFFFF00000000, 0x31020000000000000000000000000000⟩  -- SET_CUTOFF_MAX.WAH
  , ⟨0xFFFFFFFFFFFFFFFFFFFFFFFF00000000, 0x32020000000000000000000000000000⟩  -- SET_DAMP.WAH
  ]

/-- The rows of unit `FLNG`. -/
def opcodeTableFlng : List OpcodeRow :=
  [ ⟨0xFFFFFFFFFFFFFFFFFFFFFFFF00000000, 0x01030000000000000000000000000000⟩  -- PROC.FLNG
  , ⟨0xFFFFFFFFFFFFFFFFFFFFFFFFFFFFFFFE, 0x02030000000000000000000000000000⟩  -- SET_ENABLED.FLNG
  , ⟨0xFFFFFFFFFFFFFFFFFFFFFFFF00000000, 0x03030000000000000000000000000000⟩  -- SET_WET_GAMMA.FLNG
  , ⟨0xFFFFFFFFFFFFFFFFFFFFFFFF00000000, 0x04030000000000000000000000000000⟩  -- SET_LFO_FREQ.FLNG
  ]

/-- The rows of unit `DIST`. -/
def opcodeTableDist : List OpcodeRow :=
  [ ⟨0xFFFFFFFFFFFFFFFFFFFFFFFF00000000, 0x01040000000000000000000000000000⟩  -- PROC.DIST
  , ⟨0xFFFFFFFFFFFFFFFFFFFFFFFFFFFFFFFE, 0x02040000000000000000000000000000⟩  -- SET_ENABLED.DIST
  , ⟨0xFFFFFFFFFFFFFFFFFFFFFFFF00000000, 0x03040000000000000000000000000000⟩  -- SET_WET_GAMMA.DIST
  , ⟨0xFFFFFFFFFFFFFFFFFFFFFFFF00000000, 0x50040000000000000000000000000000⟩  -- SET_DIST_FUNC.DIST
  , ⟨0xFFFFFFFFFFFFFFFFFFFFFFFF00000000, 0x51040000000000000000000000000000⟩  -- SET_BOOST.DIST
  ]

/-- The rows of unit `RVRB`. -/
def opcodeTableRvrb : List OpcodeRow :=
  [ ⟨0xFFFFFFFFFFFFFFFFFFFFFFFF00000000, 0x01050000000000000000000000000000⟩  -- PROC.RVRB
  , ⟨0xFFFFFFFFFFFFFFFFFFFFFFFFFFFFFFFE, 0x02050000000000000000000000000000⟩  -- SET_ENABLED.RVRB
  , ⟨0xFFFFFFFFFFFFFFFFFFFFFFFF00000000, 0x03050000000000000000000000000000⟩  -- SET_WET_GAMMA.RVRB
  , ⟨0xFFFFFFFFFFFFFFFFFFFFFFFFFFFFFFFE, 0x60050000000000000000000000000000⟩  -- SET_COMB_MODE.RVRB
  , ⟨0xFFFFFFFFFFFFFFFFFFFFFFFFFFFFFFFE, 0x61050000000000000000000000000000⟩  -- SET_AP_MODE.RVRB
  ]

/-- The 28 rows. -/
def opcodeTable : List OpcodeRow :=
  opcodeTableSec ++ opcodeTableShlf ++ opcodeTableWah ++ opcodeTableFlng ++ opcodeTableDist ++ opcodeTableRvrb

/-! ## Words as bytes (R69, R70) -/

/-- The `n` bytes of a word of `8 * n` bits as a transport sends it, little-endian: byte 0 carries bits 7:0 (R69). -/
def bytesOf (n : Nat) (w : BitVec (8 * n)) : List Byte :=
  (List.range n).map fun i => w.extractLsb' (8 * i) 8

/-- The number little-endian bytes spell. -/
def natOfBytes : List Byte → Nat
  | [] => 0
  | b :: bs => b.toNat + 256 * natOfBytes bs

/-- The word of exactly `n` bytes; a partial word is no transaction (R70). -/
def ofBytes (n : Nat) (bs : List Byte) : Option (BitVec (8 * n)) :=
  if bs.length = n then some (BitVec.ofNat (8 * n) (natOfBytes bs)) else none

/-- The 16 bytes of a command word: byte 0 carries `W[7:0]`, byte 15 the opcode (R69). -/
def bytesOfWord (w : CommandWord) : List Byte := bytesOf 16 w

/-- The command word of 16 bytes. -/
def wordOfBytes (bs : List Byte) : Option CommandWord := ofBytes 16 bs

/-- The 4 bytes of a sample on `in0`, `in1` or `out` (R69, R70). -/
def bytesOfSample (v : F32) : List Byte := bytesOf 4 v

/-- The sample of 4 bytes. -/
def sampleOfBytes (bs : List Byte) : Option F32 := ofBytes 4 bs

/-- The 8 bytes of a response word: byte 0 carries `STATUS`, byte 1 `CAUSE`, bytes 4 to 7 `COUNT` (R69, R85). -/
def bytesOfResponse (r : ResponseWord) : List Byte := bytesOf 8 r

/-- The response word of 8 bytes. -/
def responseOfBytes (bs : List Byte) : Option ResponseWord := ofBytes 8 bs

/-- The command of the bits `w`, numbered as spec/opcode_table.json numbers them (bit 0 least significant); bits at and
above `nbits` are zero. -/
def decodeTableWord (nbits w : Nat) : Option Instr :=
  match decode (BitVec.ofNat 128 (w % 2 ^ nbits)) with
  | .ok i => some i
  | .error _ => none

end Sys2Proof
end

