-- ==== Sys2Proof/Config.lean ====
section
/-! DEFINITION. What is fixed before the block runs (spec/00_scope.md R7) and what the spec leaves free: the record
`Cfg`, the opaque functions and free values of `Config`, and the one record `Config.cfg0` that `State.reset` is built
from. -/

namespace Sys2Proof

/-- Which numerics `NUM` is (R7, R14): the IEEE binary32 operations, or another numerics, told from the further ones by
its number (log 11). It is a name: the record of functions it stands for is `numericsOf` of Machine/Num.lean, so that
`Cfg` stays plain data. -/
inductive NumId
  | binary32
  | other (id : Nat)
  deriving DecidableEq, Repr

/-- Which end of the Flanger delay line tap index 0 names (R7, R63). -/
inductive TapOrigin
  | oldest | newest
  deriving DecidableEq, Repr

/-- The five Biquad coefficients `(b0, b1, b2, a1, a2)` (spec/10_state.md R28). -/
structure ShelfCoef where
  b0 : F32
  b1 : F32
  b2 : F32
  a1 : F32
  a2 : F32
  deriving DecidableEq, Repr, Inhabited

/-- `SEC_INIT`: `(ff_first, ff_last, fb_last)`. -/
structure TapsInit where
  ffFirst : F32
  ffLast : F32
  fbLast : F32
  deriving DecidableEq, Repr

/-- `SHLF_INIT`; the type is an unchecked code, as construction receives it (R241). -/
structure ShlfInit where
  shelfType : Word32
  gainDb : F32
  cutoff : F32
  enabled : Bool
  deriving DecidableEq, Repr

/-- `WAH_INIT`. -/
structure WahInit where
  cutoffMin : F32
  cutoffMax : F32
  damp : F32
  lfoFreq : F32
  enabled : Bool
  deriving DecidableEq, Repr

/-- `FLNG_INIT`. -/
structure FlngInit where
  lfoFreq : F32
  wetGamma : F32
  enabled : Bool
  deriving DecidableEq, Repr

/-- `DIST_INIT`; the curve is an unchecked code (R241). -/
structure DistInit where
  func : Word32
  boost : F32
  wetGamma : F32
  enabled : Bool
  deriving DecidableEq, Repr

/-- `RVRB_INIT`. -/
structure RvrbInit where
  combMode : Mode
  apMode : Mode
  wetGamma : F32
  enabled : Bool
  deriving DecidableEq, Repr

/-- A Reverb preset `(gain, delay_s)` (R202). -/
structure GainDelay where
  gain : F32
  delay : F32
  deriving DecidableEq, Repr

/-- The configuration record `CFG` (R7). Its two fields that are functions, `NUM` and `SHELF_DESIGN`, are held by name:
`numOf` and `shelfDesign` of Machine/Num.lean give the functions that are meant (log 4, log 11). -/
structure Cfg where
  /-- `NUM`. -/
  num : NumId
  /-- `SHELF_DESIGN`: which of the functions `Config.shelfRaw`. -/
  design : Nat
  /-- `FS`, the one sample rate. -/
  fs : F32
  /-- `SEC_D`, the tap spacing of unit `SEC`. -/
  secD : Nat
  secInit : TapsInit
  shlfInit : ShlfInit
  wahInit : WahInit
  /-- `FLNG_MAX_DELAY` in seconds. -/
  flngMaxDelay : F32
  flngInit : FlngInit
  distInit : DistInit
  rvrbInit : RvrbInit
  /-- `PRESET_COMB[0..3]`. -/
  presetComb0 : GainDelay
  presetComb1 : GainDelay
  presetComb2 : GainDelay
  presetComb3 : GainDelay
  /-- `PRESET_AP[0..2]`. -/
  presetAp0 : GainDelay
  presetAp1 : GainDelay
  presetAp2 : GainDelay
  /-- `DMAX`, the largest tap spacing. -/
  dmax : Nat
  /-- `CAPMAX`, the largest Flanger capacity. -/
  capmax : Nat
  /-- `TAP_INDEX_ORIGIN`. -/
  tapOrigin : TapOrigin
  deriving DecidableEq, Repr

/-! ## Free functions and free values: constants without a body, so no proof can see what they are -/

/-- What `sin32` of a numerics is before the properties of R15 are imposed on it (log 3). -/
opaque Config.sinRaw : NumId → F32 → F32
/-- What `cos32` of a numerics is before the properties of R15 are imposed on it (log 3). -/
opaque Config.cosRaw : NumId → F32 → F32
/-- What `exp32` of a numerics is before the properties of R15 are imposed on it (log 3). -/
opaque Config.expRaw : NumId → F32 → F32
/-- `a (+) b` of the further numerics, by number (R14, log 11). -/
opaque Config.otherAdd : Nat → F32 → F32 → F32
/-- `a (-) b` of the further numerics. -/
opaque Config.otherSub : Nat → F32 → F32 → F32
/-- `a (*) b` of the further numerics. -/
opaque Config.otherMul : Nat → F32 → F32 → F32
/-- `a (/) b` of the further numerics. -/
opaque Config.otherDiv : Nat → F32 → F32 → F32
/-- `a < b` of the further numerics, before R11 is imposed on it. -/
opaque Config.otherLt : Nat → F32 → F32 → Bool
/-- `a <= b` of the further numerics, before R11 is imposed on it. -/
opaque Config.otherLe : Nat → F32 → F32 → Bool
/-- `a = b` of the further numerics, before R11 is imposed on it. -/
opaque Config.otherEq : Nat → F32 → F32 → Bool
/-- What the `SHELF_DESIGN` with this number gives for `(type, gain_dB, cutoff, FS)` before `SD_UNITY` is imposed on it;
the first argument after the number is true for a high-shelf (R123, log 4). -/
opaque Config.shelfRaw : Nat → Bool → F32 → F32 → F32 → ShelfCoef
/-- The bits from which the `k`-th NaN result takes its sign and payload (R14, log 5). -/
opaque Config.nanDraw : Nat → F32
/-- The `k`-th answer of the random source, before the interval is imposed on it (R204, log 6). -/
opaque Config.randomDraw : Nat → F32

/-- DESIGN CHOICE (log 2, unsafe): the configuration of `State.reset`. The spec gives no values; these are the start
states of its own examples (spec/95_test_vectors.md: `FS` and `SHLF_INIT` of P5, `SEC_D` and `SEC_INIT` of P1, `WAH_INIT`
of V34, `FLNG_MAX_DELAY` and `FLNG_INIT` of P3, `DIST_INIT` of P2, the test-only presets of section 2.6 and `RVRB_INIT` of
P4), with the largest `DMAX` and `CAPMAX` R7 allows. `NUM` is the binary32 of R14. -/
def Config.cfg0 : Cfg where
  num := .binary32
  design := 0
  fs := 0x473B8000#32          -- 48000.0
  secD := 3
  secInit := ⟨0#32, 0#32, 0#32⟩
  shlfInit := ⟨0#32, 0#32, 0x447A0000#32, true⟩          -- low-shelf, +0.0 dB, 1000.0 Hz
  wahInit := ⟨0x43C80000#32, 0x44FA0000#32, 0x3F800000#32, 0x3F800000#32, true⟩   -- 400.0, 2000.0, 1.0, 1.0
  flngMaxDelay := 0x3B449BA6#32          -- 0.003 s
  flngInit := ⟨0x3F800000#32, 0x3F800000#32, true⟩
  distInit := ⟨0x4C#32, 0x3F800000#32, 0x3F800000#32, true⟩
  rvrbInit := ⟨.preset, .preset, 0x3F000000#32, true⟩
  presetComb0 := ⟨0x3F000000#32, 0x3B03126F#32⟩          -- (0.5, 0.002)
  presetComb1 := ⟨0x3F000000#32, 0x3B449BA6#32⟩          -- (0.5, 0.003)
  presetComb2 := ⟨0x3E800000#32, 0x3B83126F#32⟩          -- (0.25, 0.004)
  presetComb3 := ⟨0x3E800000#32, 0x3BA3D70A#32⟩          -- (0.25, 0.005)
  presetAp0 := ⟨0x3F000000#32, 0x3A83126F#32⟩          -- (0.5, 0.001)
  presetAp1 := ⟨0x3F000000#32, 0x3B03126F#32⟩          -- (0.5, 0.002)
  presetAp2 := ⟨0x3E800000#32, 0x3B449BA6#32⟩          -- (0.25, 0.003)
  dmax := 16777215
  capmax := 16777215
  tapOrigin := .oldest

end Sys2Proof
end

