-- ==== Sys2Proof/Machine/Float.lean ====
section
/-! DEFINITION. Binary32 arithmetic (spec/00_scope.md R10, R11, R14, R16): the four operations, the sign operations, the
comparisons and the two conversions. Each operation is computed exactly in integers (units of `2^-149`, the smallest
subnormal) and rounded once, to nearest, ties to even. Each operation that can answer a NaN takes the index `k` of the
free value its NaN's sign and payload come from (log 5): two operations of the model never share an index. -/

namespace Sys2Proof.Machine

/-! ## The parts of a pattern -/

/-- The sign bit: true for negative. -/
def fsign (a : F32) : Bool := a.toNat / 2 ^ 31 == 1

/-- The 31 bits below the sign: exponent and fraction. -/
def fmag (a : F32) : Nat := a.toNat % 2 ^ 31

/-- The magnitude bits of an infinity; a NaN's are above, a finite number's below. -/
def infMag : Nat := 0x7F800000

def isNaN (a : F32) : Bool := decide (infMag < fmag a)
def isInf (a : F32) : Bool := fmag a == infMag
def isFinite (a : F32) : Bool := decide (fmag a < infMag)
/-- `+0` or `-0`. -/
def isZero (a : F32) : Bool := fmag a == 0

/-- The magnitude of a finite number in units of `2^-149`, from its magnitude bits: exponent field 0 is subnormal. -/
def scaledMag (m : Nat) : Nat :=
  if m / 2 ^ 23 = 0 then m else (2 ^ 23 + m % 2 ^ 23) * 2 ^ (m / 2 ^ 23 - 1)

/-- The value of a finite number in units of `2^-149`. -/
def fval (a : F32) : Int := if fsign a then -(scaledMag (fmag a) : Int) else (scaledMag (fmag a) : Int)

/-- The pattern with this sign and these magnitude bits. -/
def packF (sign : Bool) (mag : Nat) : F32 := BitVec.ofNat 32 ((if sign then 2 ^ 31 else 0) + mag)

def posZero : F32 := 0x00000000#32
def negZero : F32 := 0x80000000#32

/-! ## Rounding -/

/-- `n / d` rounded to the nearest natural number, ties to even. -/
def roundEven (n d : Nat) : Nat :=
  let q := n / d
  let r := n % d
  if 2 * r < d then q else if d < 2 * r then q + 1 else q + q % 2

/-- How many binary digits of the integer part of `n / d` are dropped so that 24 significant ones are left (none below
the normal range, where the spacing is `2^-149`). -/
def dropped (n d : Nat) : Nat := Nat.log2 (n / d) - 23

/-- The magnitude bits of the binary32 number nearest to `n / d` units of `2^-149`, ties to even; beyond the largest
finite number, those of the infinity. With `e` digits dropped the significand `r` has `2^23 <= r <= 2^24` (or `e = 0`),
and exponent field and fraction together are `e * 2^23 + r`. -/
def roundMag (n d : Nat) : Nat :=
  min infMag (dropped n d * 2 ^ 23 + roundEven n (d * 2 ^ dropped n d))

/-! ## NaN results -/

/-- A quiet NaN whose sign and payload are the `k`-th free value (R14). -/
def quietNaN (k : Nat) : F32 := Config.nanDraw k ||| 0x7FC00000#32

/-! ## Exact operations (R11) -/

/-- `fneg`: sign-bit flip, also on NaN and zero. -/
def fneg (a : F32) : F32 := a ^^^ 0x80000000#32

/-- `fabs`: sign-bit clear, also on NaN and zero. -/
def fabs (a : F32) : F32 := a &&& 0x7FFFFFFF#32

/-! ## The four operations (R14) -/

/-- `a (+) b`. An exact zero sum is `+0`, except `(-0) + (-0) = -0`. -/
def fadd (k : Nat) (a b : F32) : F32 :=
  if isNaN a || isNaN b then quietNaN k
  else if isInf a then (if isInf b && fsign a != fsign b then quietNaN k else a)
  else if isInf b then b
  else
    let v := fval a + fval b
    if v = 0 then packF (fsign a && fsign b) 0 else packF (decide (v < 0)) (roundMag v.natAbs 1)

/-- `a (-) b`. -/
def fsub (k : Nat) (a b : F32) : F32 := fadd k a (fneg b)

/-- `a (*) b`. -/
def fmul (k : Nat) (a b : F32) : F32 :=
  if isNaN a || isNaN b then quietNaN k
  else if isInf a || isInf b then
    (if isZero a || isZero b then quietNaN k else packF (fsign a != fsign b) infMag)
  else packF (fsign a != fsign b) (roundMag (scaledMag (fmag a) * scaledMag (fmag b)) (2 ^ 149))

/-- `a (/) b`. -/
def fdiv (k : Nat) (a b : F32) : F32 :=
  if isNaN a || isNaN b then quietNaN k
  else if isInf a then (if isInf b then quietNaN k else packF (fsign a != fsign b) infMag)
  else if isInf b then packF (fsign a != fsign b) 0
  else if isZero b then (if isZero a then quietNaN k else packF (fsign a != fsign b) infMag)
  else packF (fsign a != fsign b) (roundMag (scaledMag (fmag a) * 2 ^ 149) (scaledMag (fmag b)))

/-! ## Comparisons (R11): false with a NaN operand, `+0 = -0` -/

/-- Numbers and infinities in order: the magnitude bits, negated under a sign. -/
def orderKey (a : F32) : Int := if fsign a then -(fmag a : Int) else (fmag a : Int)

/-- Neither operand is a NaN. -/
def ordered (a b : F32) : Bool := !isNaN a && !isNaN b

def flt (a b : F32) : Bool := ordered a b && decide (orderKey a < orderKey b)
def fle (a b : F32) : Bool := ordered a b && decide (orderKey a ≤ orderKey b)
def fgt (a b : F32) : Bool := flt b a
def fge (a b : F32) : Bool := fle b a
def feq (a b : F32) : Bool := ordered a b && decide (orderKey a = orderKey b)

/-! ## Conversions -/

/-- `round_i`: the nearest integer, ties away from zero; no meaning (`none`) for a NaN or an infinity (R16). -/
def roundI (a : F32) : Option Int :=
  if isFinite a then
    let m : Nat := (2 * scaledMag (fmag a) + 2 ^ 149) / 2 ^ 150
    some (if fsign a then -(m : Int) else (m : Int))
  else none

/-- `i2f`: exact for `0 <= k < 2^24` (R11). -/
def i2f (n : Nat) : F32 := packF false (roundMag (n * 2 ^ 149) 1)

end Sys2Proof.Machine
end

