-- ==== Sys2Proof/Machine/Num.lean ====
section
/-! DEFINITION. The constants (spec/00_scope.md R12), the elementary functions with the named properties of R15, the
record `NUM` (R7, R14), the coefficient design with the properties of spec/41_biquad_shelving.md R123, and the random
source (spec/45_reverb.md R204). A free function keeps its value wherever the spec promises nothing; where the spec
promises a property that its value breaks, the property's own value (or a value inside the promised range) stands
instead (log 3, log 4, log 6). -/

namespace Sys2Proof.Machine

def pi32 : F32 := 0x40490FDB#32
def twoPi32 : F32 := 0x40C90FDB#32
def halfPi32 : F32 := 0x3FC90FDB#32
def sqrt2_32 : F32 := 0x3FB504F3#32
def expM05_32 : F32 := 0x3F1B4598#32
def c0_6 : F32 := 0x3F19999A#32
def c0_9 : F32 := 0x3F666666#32
def c0_015 : F32 := 0x3C75C28F#32
def c0_030 : F32 := 0x3CF5C28F#32
def c0_7 : F32 := 0x3F333333#32
def c0_0001 : F32 := 0x38D1B717#32
def c0_0101 : F32 := 0x3C257A78#32
def half : F32 := 0x3F000000#32
def one : F32 := 0x3F800000#32
def two : F32 := 0x40000000#32
def minusOne : F32 := 0xBF800000#32

/-- `lo <= v <= hi`. -/
def within (lo hi v : F32) : Bool := fle lo v && fle v hi

/-- `v` where it lies in `[lo, hi]`, else the end `hi`. -/
def limitTo (lo hi v : F32) : F32 := if within lo hi v then v else hi

/-- `v` where it is a NaN, else the NaN with `v`'s sign and low bits. -/
def asNaN (v : F32) : F32 := if isNaN v then v else v ||| 0x7FC00000#32

/-! ## The elementary functions (R15), of every numerics -/

/-- `sin32`: `SIN_ZERO`, `NAN_PROP`, `SIN_RANGE` (R15); an infinite operand's result is unconstrained. -/
def sin32 (n : NumId) (a : F32) : F32 :=
  if isZero a then a
  else if isNaN a then asNaN (Config.sinRaw n a)
  else if isFinite a then limitTo minusOne one (Config.sinRaw n a)
  else Config.sinRaw n a

/-- `cos32`: `COS_ZERO`, `NAN_PROP`, `COS_RANGE` (R15). -/
def cos32 (n : NumId) (a : F32) : F32 :=
  if isZero a then one
  else if isNaN a then asNaN (Config.cosRaw n a)
  else if isFinite a then limitTo minusOne one (Config.cosRaw n a)
  else Config.cosRaw n a

/-- `exp32`: `EXP_ZERO`, `NAN_PROP`, `EXP_RANGE` (R15); unconstrained for a positive or an infinite operand. -/
def exp32 (n : NumId) (a : F32) : F32 :=
  if isZero a then one
  else if isNaN a then asNaN (Config.expRaw n a)
  else if isFinite a && fle a posZero then limitTo posZero one (Config.expRaw n a)
  else Config.expRaw n a

/-! ## `NUM` -/

/-- The record `NUM` (R7): the four operations, the comparisons and the elementary functions, which every formula of the
datapath takes from here (R14). An operation's first argument is the index of the free value from which a NaN result
takes its sign and payload (log 5). `a > b` is `b < a`, `a >= b` is `b <= a`. -/
structure Numerics where
  add : Nat → F32 → F32 → F32
  sub : Nat → F32 → F32 → F32
  mul : Nat → F32 → F32 → F32
  div : Nat → F32 → F32 → F32
  lt : F32 → F32 → Bool
  le : F32 → F32 → Bool
  eq : F32 → F32 → Bool
  sin : F32 → F32
  cos : F32 → F32
  exp : F32 → F32

/-- The numerics R14 lays down: IEEE 754 binary32. -/
def binary32 : Numerics :=
  { add := fadd, sub := fsub, mul := fmul, div := fdiv, lt := flt, le := fle, eq := feq,
    sin := sin32 .binary32, cos := cos32 .binary32, exp := exp32 .binary32 }

/-- A result whose NaN, if it is one, takes its sign and payload from the `k`-th free value (R14). -/
def nanDrawn (k : Nat) (r : F32) : F32 := if isNaN r then quietNaN k else r

/-- A comparison on which R11 is imposed: false with a NaN operand, and of two zeros the answer `zeros`, since
`+0 = -0`. -/
def compared (zeros : Bool) (r : F32 → F32 → Bool) (a b : F32) : Bool :=
  ordered a b && (if isZero a && isZero b then zeros else r a b)

/-- A further numerics (R14: "a different numerics ... is a change of configuration"): free operations, and free
comparisons but for what R11 says of every comparison (log 11). -/
def otherNumerics (id : Nat) : Numerics :=
  { add := fun k a b => nanDrawn k (Config.otherAdd id a b), sub := fun k a b => nanDrawn k (Config.otherSub id a b),
    mul := fun k a b => nanDrawn k (Config.otherMul id a b), div := fun k a b => nanDrawn k (Config.otherDiv id a b),
    lt := compared false (Config.otherLt id), le := compared true (Config.otherLe id),
    eq := compared true (Config.otherEq id),
    sin := sin32 (.other id), cos := cos32 (.other id), exp := exp32 (.other id) }

/-- The record a name stands for. -/
def numericsOf (n : NumId) : Numerics :=
  match n with
  | .binary32 => binary32
  | .other id => otherNumerics id

/-- `NUM` of a configuration. -/
def numOf (cfg : Cfg) : Numerics := numericsOf cfg.num

/-! ## `SHELF_DESIGN` -/

/-- `FS (/) 2.0` (R126). It is only compared, so the sign and payload of a NaN quotient reach nothing and the index of its
free value is no matter. -/
def nyquist (cfg : Cfg) : F32 := (numOf cfg).div 0 cfg.fs two

/-- A cutoff is valid iff `c > +0.0` and `c < FS (/) 2.0`, "both IEEE comparisons" (R126): in every numerics, not only
under binary32. So a NaN, either zero, a negative number and `+Inf` never are. -/
def cutoffValid (cfg : Cfg) (c : F32) : Bool := flt posZero c && flt c (nyquist cfg)

/-- The two roots of `z^2 + a1 z + a2` lie strictly inside the unit circle: `|a2| < 1` and `|a1| < 1 + a2`, compared
exactly (in units of `2^-149`). -/
def polesInside (a1 a2 : F32) : Bool :=
  isFinite a1 && isFinite a2 && decide ((fval a2).natAbs < 2 ^ 149) &&
    decide (((fval a1).natAbs : Int) < 2 ^ 149 + fval a2)

/-- `SHELF_DESIGN(type, gain_dB, cutoff, FS)` of a configuration (R123): a function of the four arguments alone
(`SD_PURE`), with `SD_UNITY`: at a gain of `+0.0` or `-0.0` and a valid cutoff the numerator is `(1.0, a1, a2)` and the
poles lie inside the unit circle (`a1 = a2 = +0.0` where the free function's do not). The first argument is true for a
high-shelf. DESIGN CHOICE (log 4): R123 promises the function for valid cutoffs only (`SD_TOTAL`); here it is total, and
at an invalid cutoff it is the free function as it stands, with no property imposed. No command and no reset that yields
a state evaluates it there. -/
def shelfDesign (cfg : Cfg) (high : Bool) (gainDb cutoff : F32) : ShelfCoef :=
  let r := Config.shelfRaw cfg.design high gainDb cutoff cfg.fs
  if isZero gainDb && cutoffValid cfg cutoff then
    if polesInside r.a1 r.a2 then ⟨one, r.a1, r.a2, r.a1, r.a2⟩ else ⟨one, posZero, posZero, posZero, posZero⟩
  else r

/-! ## The random source -/

/-- `draw(lo, hi)`: the `k`-th answer of the random source, any value of the closed interval (R204). -/
def draw (k : Nat) (lo hi : F32) : F32 := limitTo lo hi (Config.randomDraw k)

end Sys2Proof.Machine
end

