-- ==== Sys2Proof/Machine/Ring.lean ====
section
/-! DEFINITION. The ring buffer primitives (spec/20_memory.md R61 to R65). A ring is the list of its entries, oldest
first; its capacity is the list's length, which no operation changes. -/

namespace Sys2Proof.Machine

/-- `RingOldest(B) = B[0]` (R62). A ring of capacity 0 does not exist (R61); the value given there is log 13. -/
def ringOldest (b : List F32) : F32 := b.headD posZero

/-- `RingAt(B, i)`: `B[i]` when the origin is `OLDEST`, `B[L-1-i]` when it is `NEWEST`; no meaning (`none`) outside
`0..L-1` (R63). -/
def ringAt (origin : TapOrigin) (b : List F32) (i : Nat) : Option F32 :=
  match origin with
  | .oldest => b[i]?
  | .newest => b.reverse[i]?

/-- `RingPush(B, v)`: the oldest entry is discarded, `v` becomes the newest (R64). -/
def ringPush (b : List F32) (v : F32) : List F32 := (b ++ [v]).tail

/-- `RingFill(B, v)` (R65). -/
def ringFill (b : List F32) (v : F32) : List F32 := List.replicate b.length v

end Sys2Proof.Machine
end

