-- ==== Sys2Proof/Machine/Datapath.lean ====
section
/-! DEFINITION. Datapath operations that several units share: the dry/wet mix (spec/43_delay_flanger.md R161) and the
LFO's phase advance (spec/42_svf_wah.md R142, spec/43_delay_flanger.md R162). Here and in the unit files `N` is the
configured `NUM` (spec/00_scope.md R14): every formula is evaluated one of its operations at a time, in the order
written, none fused. -/

namespace Sys2Proof.Machine

/-- `mix(wet, dry, g) = (wet (*) g) (+) (dry (*) (1.0 (-) g))`, no clamping (R161). Free values `k` to `k + 3`. -/
def mix (N : Numerics) (k : Nat) (wet dry g : F32) : F32 :=
  N.add (k + 3) (N.mul k wet g) (N.mul (k + 2) dry (N.sub (k + 1) one g))

/-- How many free values `mix` may use. -/
def mixDraws : Nat := 4

/-- The LFO angle `PHASE (*) LFO_FREQ` (R142, R162). -/
def lfoAngle (N : Numerics) (k : Nat) (phase freq : F32) : F32 := N.mul k phase freq

/-- The phase after one LFO step: advanced by `TWO_PI32 (/) FS`, and `+0.0` when that exceeds `TWO_PI32 (/) LFO_FREQ`
(R142: the strict comparison, the remainder discarded). Free values `k` to `k + 2`. -/
def lfoAdvance (N : Numerics) (k : Nat) (fs freq phase : F32) : F32 :=
  let p := N.add (k + 1) phase (N.div k twoPi32 fs)
  if N.lt (N.div (k + 2) twoPi32 freq) p then posZero else p

end Sys2Proof.Machine
end

