-- ==== Sys2Proof/Machine/Units.lean ====
section
/-! DEFINITION. The registers of the six units (spec/10_state.md R25 to R32) and of a `PROC` that holds
(spec/20_memory.md R67). Plain data; what reads and writes them is in the family files. -/

namespace Sys2Proof.Machine

/-- A section record (R25). -/
structure Section where
  /-- `S.D`, the tap spacing. -/
  d : Nat
  ffFirst : F32
  ffLast : F32
  fbLast : F32
  /-- `S.XH`, previous inputs, oldest first. -/
  xh : List F32
  /-- `S.YH`, previous outputs, oldest first. -/
  yh : List F32
  deriving DecidableEq, Repr

/-- The legal values of `SHLF.TYPE` (R28): code 0 and code 1 (log 14). -/
inductive ShelfType
  | low | high
  deriving DecidableEq, Repr

/-- The registers of `SHLF` (R28). -/
structure Shlf where
  shelfType : ShelfType
  gainDb : F32
  cutoff : F32
  en : Bool
  /-- `B0, B1, B2, A1, A2`. -/
  coef : ShelfCoef
  z1 : F32
  z2 : F32
  deriving DecidableEq, Repr

/-- The registers of `WAH` (R29). -/
structure Wah where
  cutoffMin : F32
  cutoffMax : F32
  damp : F32
  lfoFreq : F32
  en : Bool
  yLp : F32
  yBp : F32
  /-- Written every sample, read by nothing (R29, D28). -/
  yHp : F32
  phase : F32
  deriving DecidableEq, Repr

/-- The registers of `FLNG` (R30). -/
structure Flng where
  cap : Nat
  lfoFreq : F32
  wetGamma : F32
  en : Bool
  /-- `FLNG.BUF`, oldest first. -/
  buf : List F32
  phase : F32
  deriving DecidableEq, Repr

/-- The legal values of `DIST.FUNC` (R31): the five curves (log 14). -/
inductive Curve
  | l | q | e | i | s
  deriving DecidableEq, Repr

/-- The registers of `DIST` (R31). -/
structure Dist where
  func : Curve
  boost : F32
  wetGamma : F32
  en : Bool
  deriving DecidableEq, Repr

/-- The seven section records of `RVRB` (R32, R200). -/
structure Bank where
  comb0 : Section
  comb1 : Section
  comb2 : Section
  comb3 : Section
  ap0 : Section
  ap1 : Section
  ap2 : Section
  deriving DecidableEq, Repr

/-- The registers of `RVRB` (R32). -/
structure Rvrb where
  combMode : Mode
  apMode : Mode
  wetGamma : F32
  en : Bool
  dirty : Bool
  bank : Bank
  deriving DecidableEq, Repr

/-- A `PROC n` that has been taken from the command port and holds on an empty stream (R67, R87; log 7). -/
structure Busy where
  unit : UnitId
  /-- The `SC` flag of the command. -/
  sc : Bool
  /-- The operand `n`, answered in `COUNT` when the command completes. -/
  n : Nat
  /-- How many of the `n` samples are still to be produced. -/
  left : Nat
  /-- A sample already popped from `in0` whose side-chain sample has not arrived (R145). -/
  x : Option F32
  deriving DecidableEq, Repr

/-- A situation to which the rules give no meaning (spec/60_exceptions.md R225). -/
inductive NoMeaning
  | sectionD | round | tapIndex
  deriving DecidableEq, Repr

/-- The three causes of `INVALID_PARAMETER` (R221). -/
inductive InvalidCause
  /-- Cause 1: unknown waveshaper code. -/
  | curve
  /-- Cause 2: unknown shelf type. -/
  | shelfType
  /-- Cause 3: cutoff frequency `<= 0` or `>=` Nyquist. -/
  | cutoff
  deriving DecidableEq, Repr

end Sys2Proof.Machine
end

