-- ==== Sys2Proof/Machine/Operands.lean ====
section
/-! DEFINITION. The operand kinds that are checked against a set of values (spec/30_encoding.md R82): shelf type, curve
code (whether a cutoff is valid is `cutoffValid` of Machine/Num.lean). `f32` operands are taken as they are; `bool`,
`mode` and `proc flags` are read by the decoder. -/

namespace Sys2Proof.Machine

/-- Shelf type: 0 = low-shelf, 1 = high-shelf, every other value unknown (R82). -/
def shelfTypeOf (t : Word32) : Option ShelfType :=
  if t = 0#32 then some .low else if t = 1#32 then some .high else none

/-- Curve code: the five capital letters `L Q E I S`, every other value unknown (R82, R187). -/
def curveOf (code : Word32) : Option Curve :=
  if code = 0x4C#32 then some .l
  else if code = 0x51#32 then some .q
  else if code = 0x45#32 then some .e
  else if code = 0x49#32 then some .i
  else if code = 0x53#32 then some .s
  else none

/-- `SHELF_DESIGN` of a register value of the type (R123). -/
def designFor (cfg : Cfg) (t : ShelfType) (gainDb cutoff : F32) : ShelfCoef :=
  match t with
  | .low => shelfDesign cfg false gainDb cutoff
  | .high => shelfDesign cfg true gainDb cutoff

end Sys2Proof.Machine
end

