-- ==== Sys2Proof/Machine/Build.lean ====
section
/-! DEFINITION. Making section records and the Reverb's filter bank (spec/10_state.md R26, spec/45_reverb.md R201 to
R206), the well-formedness of `CFG` (spec/00_scope.md R7, R8) and the reset value of each unit's registers
(spec/10_state.md R27 to R32, spec/70_reset_and_hazards.md R240, R241). -/

namespace Sys2Proof.Machine

/-! ## Sections -/

/-- `sec_new(D, a, b, c)` (R26). -/
def secNew (d : Nat) (a b c : F32) : Section :=
  { d := d, ffFirst := a, ffLast := b, fbLast := c,
    xh := List.replicate d posZero, yh := List.replicate d posZero }

/-- `round_i(delay (*) FS)` (R201). A NaN product has no nearest integer whatever its payload, so the index of its free
value is no matter. -/
def delayTaps (cfg : Cfg) (delay : F32) : Option Int := roundI ((numOf cfg).mul 0 delay cfg.fs)

/-- `sec_new(round_i(delay (*) FS), a, b, c)`: no meaning when `round_i` has none (`F_ROUND`, R16) and when
`D < 1` or `D > DMAX` (`F_SECTION_D`, R206). -/
def secOfDelay (cfg : Cfg) (delay a b c : F32) : Except NoMeaning Section :=
  match delayTaps cfg delay with
  | none => .error .round
  | some d => if 1 ≤ d ∧ d ≤ (cfg.dmax : Int) then .ok (secNew d.toNat a b c) else .error .sectionD

/-- The comb section of a `(gain, delay)` pair: `(+0.0, 1.0, fneg(g))` (R201). -/
def combSection (cfg : Cfg) (p : GainDelay) : Except NoMeaning Section :=
  secOfDelay cfg p.delay posZero one (fneg p.gain)

/-- The allpass section of a `(gain, delay)` pair: `(g, 1.0, g)` (R201). -/
def apSection (cfg : Cfg) (p : GainDelay) : Except NoMeaning Section :=
  secOfDelay cfg p.delay p.gain one p.gain

/-- A comb's pair: the preset, or two draws (R204, R205). -/
def combPair (k : Nat) (m : Mode) (preset : GainDelay) : GainDelay :=
  match m with
  | .preset => preset
  | .random => ⟨draw k c0_6 c0_9, draw (k + 1) c0_015 c0_030⟩

/-- An allpass's pair: the preset, or the fixed gain and one draw (R204, R205). -/
def apPair (k : Nat) (m : Mode) (preset : GainDelay) : GainDelay :=
  match m with
  | .preset => preset
  | .random => ⟨c0_7, draw k c0_0001 c0_0101⟩

/-- How many free values a rebuild may use: four comb gains, four comb delays, three allpass delays (R204). -/
def rebuildDraws : Nat := 11

/-- The seven sections of `rvrb_rebuild()` (R205), the free values taken from index `k` on. -/
def buildBank (cfg : Cfg) (combMode apMode : Mode) (k : Nat) : Except NoMeaning Bank := do
  let comb0 ← combSection cfg (combPair k combMode cfg.presetComb0)
  let comb1 ← combSection cfg (combPair (k + 2) combMode cfg.presetComb1)
  let comb2 ← combSection cfg (combPair (k + 4) combMode cfg.presetComb2)
  let comb3 ← combSection cfg (combPair (k + 6) combMode cfg.presetComb3)
  let ap0 ← apSection cfg (apPair (k + 8) apMode cfg.presetAp0)
  let ap1 ← apSection cfg (apPair (k + 9) apMode cfg.presetAp1)
  let ap2 ← apSection cfg (apPair (k + 10) apMode cfg.presetAp2)
  pure ⟨comb0, comb1, comb2, comb3, ap0, ap1, ap2⟩

/-! ## `CFG` -/

/-- `1 <= d <= hi` for an integer that `round_i` may not give. -/
def sizeWithin (hi : Nat) (d : Option Int) : Bool :=
  match d with
  | none => false
  | some d => decide (1 ≤ d ∧ d ≤ (hi : Int))

/-- `round_i(FS (*) FLNG_MAX_DELAY)` (R160). -/
def flngCapacity (cfg : Cfg) : Option Int := roundI ((numOf cfg).mul 0 cfg.fs cfg.flngMaxDelay)

/-- A preset's delay gives a legal tap spacing (R7). -/
def presetOk (cfg : Cfg) (p : GainDelay) : Bool := sizeWithin cfg.dmax (delayTaps cfg p.delay)

/-- The constraints of R7 whose breach is not one of the three listed errors (R8). That `FS` is finite and above 0 is
said of the number it is, in whatever numerics. -/
def cfgSizesOk (cfg : Cfg) : Bool :=
  isFinite cfg.fs && fgt cfg.fs posZero
    && decide (1 ≤ cfg.dmax ∧ cfg.dmax < 2 ^ 24) && decide (1 ≤ cfg.capmax ∧ cfg.capmax < 2 ^ 24)
    && decide (1 ≤ cfg.secD ∧ cfg.secD ≤ cfg.dmax)
    && sizeWithin cfg.capmax (flngCapacity cfg)
    && presetOk cfg cfg.presetComb0 && presetOk cfg cfg.presetComb1
    && presetOk cfg cfg.presetComb2 && presetOk cfg cfg.presetComb3
    && presetOk cfg cfg.presetAp0 && presetOk cfg cfg.presetAp1 && presetOk cfg cfg.presetAp2

/-- The further condition of R206 on a `CFG` whose Reverb is ever in random mode:
`FS (*) C0_0001 >= 0.5` and `round_i(C0_030 (*) FS) <= DMAX`. -/
def cfgRandomOk (cfg : Cfg) : Bool :=
  (numOf cfg).le half ((numOf cfg).mul 0 cfg.fs c0_0001) &&
    (match roundI ((numOf cfg).mul 0 c0_030 cfg.fs) with
     | none => false
     | some d => decide (d ≤ (cfg.dmax : Int)))

/-! ## Reset values of the units (R240) -/

def secReset (cfg : Cfg) : Section :=
  secNew cfg.secD cfg.secInit.ffFirst cfg.secInit.ffLast cfg.secInit.fbLast

/-- `SHLF` at reset: the parameters, the coefficients derived from them, zero delay registers (R28). -/
def shlfReset (cfg : Cfg) (t : ShelfType) : Shlf :=
  { shelfType := t, gainDb := cfg.shlfInit.gainDb, cutoff := cfg.shlfInit.cutoff, en := cfg.shlfInit.enabled,
    coef := designFor cfg t cfg.shlfInit.gainDb cfg.shlfInit.cutoff, z1 := posZero, z2 := posZero }

def wahReset (cfg : Cfg) : Wah :=
  { cutoffMin := cfg.wahInit.cutoffMin, cutoffMax := cfg.wahInit.cutoffMax, damp := cfg.wahInit.damp,
    lfoFreq := cfg.wahInit.lfoFreq, en := cfg.wahInit.enabled,
    yLp := posZero, yBp := posZero, yHp := posZero, phase := posZero }

def flngReset (cfg : Cfg) (cap : Nat) : Flng :=
  { cap := cap, lfoFreq := cfg.flngInit.lfoFreq, wetGamma := cfg.flngInit.wetGamma, en := cfg.flngInit.enabled,
    buf := List.replicate cap posZero, phase := posZero }

def distReset (cfg : Cfg) (f : Curve) : Dist :=
  { func := f, boost := cfg.distInit.boost, wetGamma := cfg.distInit.wetGamma, en := cfg.distInit.enabled }

/-- `RVRB` at reset, its bank built with the reset modes and `DIRTY = 0` (R203). -/
def rvrbReset (cfg : Cfg) (bank : Bank) : Rvrb :=
  { combMode := cfg.rvrbInit.combMode, apMode := cfg.rvrbInit.apMode, wetGamma := cfg.rvrbInit.wetGamma,
    en := cfg.rvrbInit.enabled, dirty := false, bank := bank }

end Sys2Proof.Machine
end

