-- ==== Sys2Proof/Machine/State.lean ====
section
/-! DEFINITION. The state of the block (spec/10_state.md R20, spec/20_memory.md R60, R66), why a step can stop, and
reset (spec/70_reset_and_hazards.md R240, R241; spec/10_state.md R36). -/

namespace Sys2Proof.Machine

/-- The whole block. -/
structure State where
  /-- The configuration record, a parameter of the step in the spec (R20); no step changes it (log 1). -/
  cfg : Cfg
  /-- Unit 0 (R27). -/
  sec : Section
  /-- Unit 1 (R28). -/
  shlf : Shlf
  /-- Unit 2 (R29). -/
  wah : Wah
  /-- Unit 3 (R30). -/
  flng : Flng
  /-- Unit 4 (R31). -/
  dist : Dist
  /-- Unit 5 (R32). -/
  rvrb : Rvrb
  /-- Input stream `in0`, head first (R66). -/
  in0 : List F32
  /-- Input stream `in1`, head first (R66). -/
  in1 : List F32
  /-- Output stream `out`, head first (R66, R68). -/
  out : List F32
  /-- The command port: words waiting to be taken, head first (R5, R22; log 8). -/
  cmds : List CommandWord
  /-- The response port: words sent and not yet taken by the host, oldest first (R85; log 8). -/
  resp : List ResponseWord
  /-- The `PROC` that holds on an empty stream, if one does (R67; log 7). -/
  busy : Option Busy
  /-- The model's own field: how many free values have been used (log 5). -/
  draws : Nat
  deriving DecidableEq, Repr

/-- The faults of R225: situations to which the rules give no meaning. Each stop is safe: nothing is claimed about what
the hardware does next (U16). -/
inductive Fault
  /-- `F_SECTION_D`, raised by the Reverb rebuild at the start of `PROC.RVRB`: `sec_new` with `D < 1` or `D > DMAX`
  (R206). Safe. -/
  | fSectionD
  /-- `F_ROUND`, raised by the Reverb rebuild and by a `PROC.FLNG` sample: `round_i` of a NaN or an infinity (R16).
  Safe. -/
  | fRound
  /-- `F_TAP_INDEX`, raised by a `PROC.FLNG` sample: a tap index outside `0..CAP-1`, or one computed at an infinite or NaN
  `LFO_FREQ`, which has no meaning (R163, R166; log 17). Safe. -/
  | fTapIndex
  deriving DecidableEq, Repr

/-- Instructions without a meaning in this model. -/
inductive Refusal
  /-- Raised by an arm of `exec` that has no meaning yet; no arm of this model is one. Safe. -/
  | notModelled (mnemonic : String)
  deriving DecidableEq, Repr

/-- The three outcomes of a step of this machine. -/
abbrev Outcome := Host.Outcome State Fault Refusal

/-- Why `reset(CFG)` yields no state (R8, R241). -/
inductive ResetError
  /-- A constraint of R7 outside the three listed errors is broken: outside the source's contract (R8). -/
  | illFormed
  /-- Construction is rejected with one of the three causes (R241). -/
  | invalidParameter (cause : InvalidCause)
  /-- The rebuild of a random-mode reset meets a situation without a meaning (R206; log 15). -/
  | noMeaning (why : NoMeaning)
  deriving DecidableEq, Repr

/-- `reset(CFG)` (R240, R241), the free values taken from index `k` on: the checks in R241's order, then every unit at
its reset value, the streams empty, and the model's own ports empty (log 8). DESIGN CHOICE (log 15): the further
condition that R206 puts on a configuration with the Reverb in random mode (`cfgRandomOk`) is not among the checks, as it
is not in R7 or R240; such a configuration has a reset state exactly where the values drawn give legal sizes. -/
def resetOf (cfg : Cfg) (k : Nat) : Except ResetError State :=
  if cfgSizesOk cfg then
    match shelfTypeOf cfg.shlfInit.shelfType with
    | none => .error (.invalidParameter .shelfType)
    | some t =>
      if cutoffValid cfg cfg.shlfInit.cutoff then
        match curveOf cfg.distInit.func with
        | none => .error (.invalidParameter .curve)
        | some f =>
          match buildBank cfg cfg.rvrbInit.combMode cfg.rvrbInit.apMode k with
          | .error why => .error (.noMeaning why)
          | .ok bank =>
            .ok
              { cfg := cfg
                sec := secReset cfg
                shlf := shlfReset cfg t
                wah := wahReset cfg
                flng := flngReset cfg ((flngCapacity cfg).getD 0).toNat
                dist := distReset cfg f
                rvrb := rvrbReset cfg bank
                in0 := []
                in1 := []
                out := []
                cmds := []
                resp := []
                busy := none
                draws := k + rebuildDraws }
      else .error (.invalidParameter .cutoff)
  else .error .illFormed

/-- The block right after reset with the configuration of log 2: `resetOf Config.cfg0 0`, which yields a state. -/
def State.reset : State := (resetOf Config.cfg0 0).toOption.get (by decide +kernel)

end Sys2Proof.Machine
end

