-- ==== Sys2Proof/Machine/Ops.lean ====
section
/-! DEFINITION. The shared operations over the state: responses (spec/30_encoding.md R85, R86), rejection, which is all
there is of taking an exception on this block (spec/60_exceptions.md R221, R223, R224, R228; there is no return, R229),
faults (R225), the sample streams (spec/20_memory.md R66 to R68) and the command port (spec/10_state.md R22). -/

namespace Sys2Proof.Machine

/-! ## Responses -/

/-- A response word: `COUNT[63:32]`, reserved zero `[31:16]`, `CAUSE[15:8]`, `STATUS[7:0]` (R85). -/
def responseWord (count : BitVec 32) (cause status : BitVec 8) : ResponseWord :=
  count ++ 0#16 ++ cause ++ status

/-- Send a response: exactly one word, after the ones already sent (R85). -/
def respond (r : ResponseWord) (s : State) : State := { s with resp := s.resp ++ [r] }

/-- The word of `respond OK(count)` (R86). -/
def okWord (count : Nat) : ResponseWord := responseWord (BitVec.ofNat 32 count) 0#8 0#8

/-- `respond OK(count)` (R86). -/
def respondOk (count : Nat) (s : State) : State := respond (okWord count) s

/-- The `CAUSE` of `INVALID_PARAMETER` (R221). -/
def invalidCode : InvalidCause → BitVec 8
  | .curve => 1#8
  | .shelfType => 2#8
  | .cutoff => 3#8

/-- The `CAUSE` of `ILLEGAL_COMMAND` (R223). -/
def illegalCode : IllegalCause → BitVec 8
  | .opcode => 1#8
  | .unit => 2#8
  | .reserved => 3#8

/-- The two errors of the block (R220, R221, R223). -/
inductive Rejection
  | invalidParameter (cause : InvalidCause)
  | illegalCommand (cause : IllegalCause)
  deriving DecidableEq, Repr

/-- The response word of an error: `STATUS` 1 or 2, its cause, `COUNT = 0` (R85, R224). -/
def rejectionWord : Rejection → ResponseWord
  | .invalidParameter c => responseWord 0#32 (invalidCode c) 1#8
  | .illegalCommand c => responseWord 0#32 (illegalCode c) 2#8

/-- `reject <Error>(cause)`: no architectural state changes, the error response is sent (R224). This is the block's
trap entry: no state is saved, no mode changes, control goes nowhere (R228). -/
def reject (e : Rejection) (s : State) : State := respond (rejectionWord e) s

/-! ## Faults -/

/-- The fault of a situation without a meaning (R225). -/
def faultOf : NoMeaning → Fault
  | .sectionD => .fSectionD
  | .round => .fRound
  | .tapIndex => .fTapIndex

/-! ## Streams -/

/-- `StreamPop(in0)`: the head and the state without it; `none` while the stream is empty (R67). -/
def popIn0 (s : State) : Option (F32 × State) :=
  match s.in0 with
  | [] => none
  | x :: xs => some (x, { s with in0 := xs })

/-- `StreamPop(in1)` (R67). -/
def popIn1 (s : State) : Option (F32 × State) :=
  match s.in1 with
  | [] => none
  | x :: xs => some (x, { s with in1 := xs })

/-- `StreamPush(out, v)`: it never blocks (R68). -/
def pushOut (v : F32) (s : State) : State := { s with out := s.out ++ [v] }

/-! ## The command port -/

/-- Take the command word at the head of the command port (R22). -/
def takeCommand (s : State) : Option (CommandWord × State) :=
  match s.cmds with
  | [] => none
  | w :: ws => some (w, { s with cmds := ws })

end Sys2Proof.Machine
end

