-- ==== Sys2Proof/Machine/Flags.lean ====
section
/-! DEFINITION. The flag bits of the block (spec/10_state.md R33): five enable bits and `RVRB.DIRTY`. There are no
condition codes, and no command computes a flag from data. -/

namespace Sys2Proof.Machine

/-- What a unit with enable bit `en` outputs for the input `x` when its datapath gives `y` (R128, R144, R164, R212). -/
def enabledOut (en : Bool) (y x : F32) : F32 := if en then y else x

/-- Mark the filter bank dirty: every mode write does (R33, R208, R209). -/
def markDirty (r : Rvrb) : Rvrb := { r with dirty := true }

/-- Clear the dirty bit: the rebuild does (R33, R205). -/
def clearDirty (r : Rvrb) : Rvrb := { r with dirty := false }

end Sys2Proof.Machine
end

