-- ==== Sys2Proof/Machine/Dist.lean ====
section
/-! DEFINITION. Unit `DIST`, the Waveshaper (spec/44_waveshaper_distortion.md R180 to R190). -/

namespace Sys2Proof.Machine

/-- `curve(code, m)` (R180). Free values `k` to `k + 3`. -/
def curve (N : Numerics) (k : Nat) (c : Curve) (m : F32) : F32 :=
  match c with
  | .l => m
  | .q => N.sub (k + 3) one (N.mul (k + 2) (N.sub k one m) (N.sub (k + 1) one m))
  | .e => N.div (k + 1) (N.sub k one (N.exp (fneg m))) expM05_32
  | .i => N.div (k + 2) (N.mul k two m) (N.add (k + 1) one m)
  | .s => N.sin (N.mul k halfPi32 m)

/-- `sign(x)`: `-1.0` if `x < +0.0`, else `+1.0` (R181). -/
def signOf (N : Numerics) (x : F32) : F32 := if N.lt x posZero then minusOne else one

/-- The saturated magnitude `w` of `shape` (R182): exactly 1 without the curve from `m >= 1` on, else the curve
re-clipped to at most 1. Free values `k` to `k + 3`. -/
def saturate (N : Numerics) (k : Nat) (f : Curve) (m : F32) : F32 :=
  if N.le one m then one
  else
    let c := curve N k f m
    if N.lt one c then one else c

/-- `shape(x)` (R182). Free values `k` to `k + 5`. -/
def shape (N : Numerics) (k : Nat) (d : Dist) (x : F32) : F32 :=
  N.mul (k + 5) (signOf N x) (saturate N (k + 1) d.func (N.mul k (fabs x) d.boost))

/-- How many free values a sample may use: `shape` and `mix`. -/
def distDraws : Nat := 10

/-- `DIST_sample(x)` (R183): disabled, the input; there is no state to advance. -/
def distSample (x : F32) (s : State) : State × F32 :=
  if s.dist.en then
    ({ s with draws := s.draws + distDraws },
     mix (numOf s.cfg) (s.draws + 6) (shape (numOf s.cfg) s.draws s.dist x) x s.dist.wetGamma)
  else (s, x)

/-- `SET_DIST_FUNC.DIST` (R187): any other code is rejected, `FUNC` unchanged. -/
def execSetDistFuncDist (code : Word32) (s : State) : Outcome :=
  match curveOf code with
  | none => .next (reject (.invalidParameter .curve) s)
  | some f => .next (respondOk 0 { s with dist := { s.dist with func := f } })

/-- `SET_BOOST.DIST` (R188). -/
def execSetBoostDist (b : F32) (s : State) : Outcome :=
  .next (respondOk 0 { s with dist := { s.dist with boost := b } })

/-- `SET_WET_GAMMA.DIST` (R189). -/
def execSetWetGammaDist (g : F32) (s : State) : Outcome :=
  .next (respondOk 0 { s with dist := { s.dist with wetGamma := g } })

/-- `SET_ENABLED.DIST` (R190). -/
def execSetEnabledDist (en : Bool) (s : State) : Outcome :=
  .next (respondOk 0 { s with dist := { s.dist with en := en } })

end Sys2Proof.Machine
end

