-- ==== Sys2Proof/Machine/Flng.lean ====
section
/-! DEFINITION. Unit `FLNG`, the Modulated Delay Line (spec/43_delay_flanger.md R160 to R168). -/

namespace Sys2Proof.Machine

/-- The value of the Flanger LFO: `0.5 (-) (0.5 (*) cos32(PHASE (*) LFO_FREQ))` (R162). Free values `k` to `k + 2`. -/
def flngLfoValue (N : Numerics) (k : Nat) (f : Flng) : F32 :=
  N.sub (k + 2) half (N.mul (k + 1) half (N.cos (lfoAngle N k f.phase f.lfoFreq)))

/-- `flng_lfo_next()` (R162): the value from the current phase, then advance, then test. Free values `k` to `k + 5`. -/
def flngLfoNext (N : Numerics) (k : Nat) (fs : F32) (f : Flng) : Flng × F32 :=
  ({ f with phase := lfoAdvance N (k + 3) fs f.lfoFreq f.phase }, flngLfoValue N k f)

/-- `flng_index(v) = round_i(v (*) i2f(CAP - 1))` (R163). -/
def flngIndex (N : Numerics) (k : Nat) (cap : Nat) (v : F32) : Option Int := roundI (N.mul k v (i2f (cap - 1)))

/-- The wet sample: the delay line read at the tap index (R163, R164). `F_ROUND` when `round_i` has no meaning;
`F_TAP_INDEX` when the index is outside the buffer, or when it comes from an `LFO_FREQ` (`freq`) that is infinite or a
NaN: it then has no meaning, whatever number came out (R163, R166, U9; log 17). At a finite `LFO_FREQ` the index counts as
it is computed, also where the angle overflows. -/
def flngTap (origin : TapOrigin) (buf : List F32) (freq : F32) (idx : Option Int) : Except NoMeaning F32 :=
  match idx with
  | none => .error .round
  | some i =>
    if isFinite freq && decide (0 ≤ i) then
      match ringAt origin buf i.toNat with
      | none => .error .tapIndex
      | some wet => .ok wet
    else .error .tapIndex

/-- The datapath of one sample before the enable bit (R164): LFO, index, read, mix, and the push of the dry sample.
Free values `k` to `k + 10`. -/
def flngFilter (k : Nat) (cfg : Cfg) (f : Flng) (x : F32) : Except NoMeaning (Flng × F32) :=
  let N := numOf cfg
  let v := flngLfoNext N k cfg.fs f
  match flngTap cfg.tapOrigin f.buf f.lfoFreq (flngIndex N (k + 6) f.cap v.2) with
  | .error why => .error why
  | .ok wet => .ok ({ v.1 with buf := ringPush f.buf x }, mix N (k + 7) wet x f.wetGamma)

/-- How many free values `flngFilter` may use. -/
def flngFilterDraws : Nat := 11

/-- `FLNG_sample(x)` (R164): every step runs also when disabled. -/
def flngSample (x : F32) (s : State) : Except NoMeaning (State × F32) :=
  match flngFilter s.draws s.cfg s.flng x with
  | .error why => .error why
  | .ok r => .ok ({ s with flng := r.1, draws := s.draws + flngFilterDraws }, enabledOut s.flng.en r.2 x)

/-- `SET_LFO_FREQ.FLNG` (R166). -/
def execSetLfoFreqFlng (v : F32) (s : State) : Outcome :=
  .next (respondOk 0 { s with flng := { s.flng with lfoFreq := v } })

/-- `SET_WET_GAMMA.FLNG` (R167). -/
def execSetWetGammaFlng (g : F32) (s : State) : Outcome :=
  .next (respondOk 0 { s with flng := { s.flng with wetGamma := g } })

/-- `SET_ENABLED.FLNG` (R168). -/
def execSetEnabledFlng (en : Bool) (s : State) : Outcome :=
  .next (respondOk 0 { s with flng := { s.flng with en := en } })

end Sys2Proof.Machine
end

