-- ==== Sys2Proof/Machine/Sec.lean ====
section
/-! DEFINITION. Unit `SEC`, the Sparse-Tap IIR Section (spec/40_sparse_tap_section.md R100 to R105). -/

namespace Sys2Proof.Machine

/-- `sec_filter(S, x)` (R101): both oldest entries are read before both pushes, the three products are added left to
right. Free values `k` to `k + 4`. -/
def secFilter (N : Numerics) (k : Nat) (S : Section) (x : F32) : Section × F32 :=
  let xo := ringOldest S.xh
  let yo := ringOldest S.yh
  let y := N.add (k + 4) (N.add (k + 2) (N.mul k S.fbLast yo) (N.mul (k + 1) S.ffFirst x)) (N.mul (k + 3) S.ffLast xo)
  ({ S with xh := ringPush S.xh x, yh := ringPush S.yh y }, y)

/-- How many free values `secFilter` may use. -/
def secFilterDraws : Nat := 5

/-- `SEC_sample(x) = sec_filter(SEC, x)` (R103). -/
def secSample (x : F32) (s : State) : State × F32 :=
  let r := secFilter (numOf s.cfg) s.draws s.sec x
  ({ s with sec := r.1, draws := s.draws + secFilterDraws }, r.2)

/-- `SET_TAPS.SEC` (R104). -/
def execSetTapsSec (ffFirst ffLast fbLast : F32) (s : State) : Outcome :=
  .next (respondOk 0 { s with sec := { s.sec with ffFirst := ffFirst, ffLast := ffLast, fbLast := fbLast } })

/-- `RESET_HIST.SEC` (R105). -/
def execResetHistSec (s : State) : Outcome :=
  .next (respondOk 0
    { s with sec := { s.sec with xh := ringFill s.sec.xh posZero, yh := ringFill s.sec.yh posZero } })

end Sys2Proof.Machine
end

