-- ==== Sys2Proof/Machine/Rvrb.lean ====
section
/-! DEFINITION. Unit `RVRB`, the Reverb composition (spec/45_reverb.md R200 to R212). -/

namespace Sys2Proof.Machine

/-- The wet value of one sample (R212): the four combs fed the dry input and summed in index order from `+0.0`, the sum
through the three allpasses in series. Free values `k` to `k + 38`. -/
def bankStep (N : Numerics) (k : Nat) (b : Bank) (x : F32) : Bank × F32 :=
  let c0 := secFilter N k b.comb0 x
  let acc0 := N.add (k + 5) posZero c0.2
  let c1 := secFilter N (k + 6) b.comb1 x
  let acc1 := N.add (k + 11) acc0 c1.2
  let c2 := secFilter N (k + 12) b.comb2 x
  let acc2 := N.add (k + 17) acc1 c2.2
  let c3 := secFilter N (k + 18) b.comb3 x
  let acc3 := N.add (k + 23) acc2 c3.2
  let a0 := secFilter N (k + 24) b.ap0 acc3
  let a1 := secFilter N (k + 29) b.ap1 a0.2
  let a2 := secFilter N (k + 34) b.ap2 a1.2
  (⟨c0.1, c1.1, c2.1, c3.1, a0.1, a1.1, a2.1⟩, a2.2)

/-- How many free values a sample may use: `bankStep` and `mix`. -/
def rvrbDraws : Nat := 43

/-- `RVRB_sample(x)` (R212): the sections run also when disabled. -/
def rvrbSample (x : F32) (s : State) : State × F32 :=
  let r := bankStep (numOf s.cfg) s.draws s.rvrb.bank x
  ({ s with rvrb := { s.rvrb with bank := r.1 }, draws := s.draws + rvrbDraws },
   enabledOut s.rvrb.en (mix (numOf s.cfg) (s.draws + 39) r.2 x s.rvrb.wetGamma) x)

/-- `rvrb_rebuild()` (R205): all seven sections replaced in one step, `DIRTY` cleared. -/
def rvrbRebuild (s : State) : Except NoMeaning State :=
  match buildBank s.cfg s.rvrb.combMode s.rvrb.apMode s.draws with
  | .error why => .error why
  | .ok bank => .ok { s with rvrb := clearDirty { s.rvrb with bank := bank }, draws := s.draws + rebuildDraws }

/-- The rebuild that `PROC.RVRB` performs first, when one is pending (R87, R207). -/
def rvrbRefresh (s : State) : Except NoMeaning State :=
  if s.rvrb.dirty then rvrbRebuild s else .ok s

/-- `SET_COMB_MODE.RVRB` (R208): `DIRTY` is set also when the value is the old one. -/
def execSetCombModeRvrb (m : Mode) (s : State) : Outcome :=
  .next (respondOk 0 { s with rvrb := markDirty { s.rvrb with combMode := m } })

/-- `SET_AP_MODE.RVRB` (R209). -/
def execSetApModeRvrb (m : Mode) (s : State) : Outcome :=
  .next (respondOk 0 { s with rvrb := markDirty { s.rvrb with apMode := m } })

/-- `SET_WET_GAMMA.RVRB` (R210): does not set `DIRTY`. -/
def execSetWetGammaRvrb (g : F32) (s : State) : Outcome :=
  .next (respondOk 0 { s with rvrb := { s.rvrb with wetGamma := g } })

/-- `SET_ENABLED.RVRB` (R211). -/
def execSetEnabledRvrb (en : Bool) (s : State) : Outcome :=
  .next (respondOk 0 { s with rvrb := { s.rvrb with en := en } })

end Sys2Proof.Machine
end

