-- ==== Sys2Proof/Machine/Shlf.lean ====
section
/-! DEFINITION. Unit `SHLF`, the Biquad / Shelving filter (spec/41_biquad_shelving.md R120 to R132). -/

namespace Sys2Proof.Machine

/-- `bq_step(x)` (R121): the new `Z1` uses the old `Z2`, both updates use the new `y`. Free values `k` to `k + 8`. -/
def bqStep (N : Numerics) (k : Nat) (f : Shlf) (x : F32) : Shlf × F32 :=
  let y := N.add (k + 1) f.z1 (N.mul k x f.coef.b0)
  let z1n := N.sub (k + 5) (N.add (k + 3) f.z2 (N.mul (k + 2) x f.coef.b1)) (N.mul (k + 4) y f.coef.a1)
  let z2n := N.sub (k + 8) (N.mul (k + 6) x f.coef.b2) (N.mul (k + 7) y f.coef.a2)
  ({ f with z1 := z1n, z2 := z2n }, y)

/-- How many free values `bqStep` may use. -/
def bqStepDraws : Nat := 9

/-- `SHLF_sample(x)` (R128): the recursion always runs, a disabled unit returns the input. -/
def shlfSample (x : F32) (s : State) : State × F32 :=
  let r := bqStep (numOf s.cfg) s.draws s.shlf x
  ({ s with shlf := r.1, draws := s.draws + bqStepDraws }, enabledOut s.shlf.en r.2 x)

/-- The commit of `shelf_rederive` (R125): the three parameters and the five coefficients, all at once; `Z1`, `Z2` and
`EN` are not touched. -/
def shelfCommit (t : ShelfType) (gainDb cutoff : F32) (s : State) : State :=
  { s with shlf := { s.shlf with
      shelfType := t, gainDb := gainDb, cutoff := cutoff, coef := designFor s.cfg t gainDb cutoff } }

/-- `shelf_rederive(t, g, c)` and the response (R125): the type is checked before the cutoff, a rejection commits
nothing. -/
def shelfRederive (t : Option ShelfType) (gainDb cutoff : F32) (s : State) : State :=
  match t with
  | none => reject (.invalidParameter .shelfType) s
  | some t =>
    if cutoffValid s.cfg cutoff then respondOk 0 (shelfCommit t gainDb cutoff s)
    else reject (.invalidParameter .cutoff) s

/-- `SET_TYPE.SHLF` (R129). -/
def execSetTypeShlf (t : Word32) (s : State) : Outcome :=
  .next (shelfRederive (shelfTypeOf t) s.shlf.gainDb s.shlf.cutoff s)

/-- `SET_GAIN.SHLF` (R130). -/
def execSetGainShlf (g : F32) (s : State) : Outcome :=
  .next (shelfRederive (some s.shlf.shelfType) g s.shlf.cutoff s)

/-- `SET_CUTOFF.SHLF` (R131). -/
def execSetCutoffShlf (c : F32) (s : State) : Outcome :=
  .next (shelfRederive (some s.shlf.shelfType) s.shlf.gainDb c s)

/-- `SET_ENABLED.SHLF` (R132). -/
def execSetEnabledShlf (en : Bool) (s : State) : Outcome :=
  .next (respondOk 0 { s with shlf := { s.shlf with en := en } })

end Sys2Proof.Machine
end

