-- ==== Sys2Proof/Machine/Wah.lean ====
section
/-! DEFINITION. Unit `WAH`, the State-Variable Filter core (spec/42_svf_wah.md R140 to R150). -/

namespace Sys2Proof.Machine

/-- The value of the Wah LFO from the current phase: `0.5 (+) (0.5 (*) sin32(PHASE (*) LFO_FREQ))` (R142). Free values
`k` to `k + 2`. -/
def wahLfoValue (N : Numerics) (k : Nat) (w : Wah) : F32 :=
  N.add (k + 2) half (N.mul (k + 1) half (N.sin (lfoAngle N k w.phase w.lfoFreq)))

/-- `wah_lfo_next()` (R142): the value from the current phase, then advance, then test. Free values `k` to `k + 5`. -/
def wahLfoNext (N : Numerics) (k : Nat) (fs : F32) (w : Wah) : Wah × F32 :=
  ({ w with phase := lfoAdvance N (k + 3) fs w.lfoFreq w.phase }, wahLfoValue N k w)

/-- `env` (R140): the side-chain sample, the LFO then not consulted and its phase unchanged, or the next LFO value. -/
def wahEnv (N : Numerics) (k : Nat) (fs : F32) (e : Option F32) (w : Wah) : Wah × F32 :=
  match e with
  | some v => (w, v)
  | none => wahLfoNext N k fs w

/-- `fc` of `wah_coeffs(env)` (R141). Free values `k` to `k + 2`. -/
def wahCutoff (N : Numerics) (k : Nat) (w : Wah) (env : F32) : F32 :=
  N.add (k + 2) w.cutoffMin (N.mul (k + 1) (N.sub k w.cutoffMax w.cutoffMin) env)

/-- `wah_coeffs(env)`: the temporaries `(F, Q)` (R141). Free values `k` to `k + 6`. -/
def wahCoeffs (N : Numerics) (k : Nat) (fs : F32) (w : Wah) (env : F32) : F32 × F32 :=
  (N.mul (k + 5) two (N.sin (N.div (k + 4) (N.mul (k + 3) pi32 (wahCutoff N k w env)) fs)),
   N.div (k + 6) w.damp sqrt2_32)

/-- `svf_step(x, F, Q)` (R143): the high-pass first, the low-pass from the new band-pass. Free values `k` to `k + 6`. -/
def svfStep (N : Numerics) (k : Nat) (w : Wah) (x f q : F32) : Wah × F32 :=
  let hp := N.sub (k + 2) (N.sub k x w.yLp) (N.mul (k + 1) q w.yBp)
  let bp := N.add (k + 4) (N.mul (k + 3) f hp) w.yBp
  let lp := N.add (k + 6) (N.mul (k + 5) f bp) w.yLp
  ({ w with yHp := hp, yBp := bp, yLp := lp }, bp)

/-- The datapath of one sample before the enable bit (R144): envelope, coefficients, recursion. Free values `k` to
`k + 19`. -/
def wahFilter (N : Numerics) (k : Nat) (fs : F32) (e : Option F32) (w : Wah) (x : F32) : Wah × F32 :=
  let v := wahEnv N k fs e w
  let c := wahCoeffs N (k + 6) fs v.1 v.2
  svfStep N (k + 13) v.1 x c.1 c.2

/-- How many free values `wahFilter` may use. -/
def wahFilterDraws : Nat := 20

/-- `WAH_sample(x, e)` (R144); `e` is the side-chain sample when `SC = 1`. -/
def wahSample (e : Option F32) (x : F32) (s : State) : State × F32 :=
  let r := wahFilter (numOf s.cfg) s.draws s.cfg.fs e s.wah x
  ({ s with wah := r.1, draws := s.draws + wahFilterDraws }, enabledOut s.wah.en r.2 x)

/-- `SET_CUTOFF_MIN.WAH` (R146). -/
def execSetCutoffMinWah (v : F32) (s : State) : Outcome :=
  .next (respondOk 0 { s with wah := { s.wah with cutoffMin := v } })

/-- `SET_CUTOFF_MAX.WAH` (R147). -/
def execSetCutoffMaxWah (v : F32) (s : State) : Outcome :=
  .next (respondOk 0 { s with wah := { s.wah with cutoffMax := v } })

/-- `SET_DAMP.WAH` (R148). -/
def execSetDampWah (v : F32) (s : State) : Outcome :=
  .next (respondOk 0 { s with wah := { s.wah with damp := v } })

/-- `SET_LFO_FREQ.WAH` (R149): the phase is not reset. -/
def execSetLfoFreqWah (v : F32) (s : State) : Outcome :=
  .next (respondOk 0 { s with wah := { s.wah with lfoFreq := v } })

/-- `SET_ENABLED.WAH` (R150). -/
def execSetEnabledWah (en : Bool) (s : State) : Outcome :=
  .next (respondOk 0 { s with wah := { s.wah with en := en } })

end Sys2Proof.Machine
end

