-- ==== Sys2Proof/Machine/Proc.lean ====
section
/-! DEFINITION. The common shape of `PROC` (spec/30_encoding.md R87), its hold on an empty stream (spec/20_memory.md
R67, spec/60_exceptions.md R232) and the six `PROC` commands (R103, R128, R145, R165, R186, R207). -/

namespace Sys2Proof.Machine

/-- `<u>_sample(x [, e])`: the per-sample function of a unit; `e` is there when `SC = 1` (R87). -/
def unitSample (u : UnitId) (e : Option F32) (x : F32) (s : State) : Except NoMeaning (State × F32) :=
  match u with
  | .sec => .ok (secSample x s)
  | .shlf => .ok (shlfSample x s)
  | .wah => .ok (wahSample e x s)
  | .flng => flngSample x s
  | .dist => .ok (distSample x s)
  | .rvrb => .ok (rvrbSample x s)

/-- The side-chain sample of one iteration: popped from `in1` when `SC = 1`, not consulted when `SC = 0` (R87, R140);
`none` while it is awaited. -/
def popSide (sc : Bool) (s : State) : Option (Option F32 × State) :=
  if sc then
    match popIn1 s with
    | none => none
    | some (e, s') => some (some e, s')
  else some (none, s)

/-- The loop of R87 with `left` samples to go: pop `in0`, pop `in1` when `SC = 1`, compute, push; `respond OK(n)` at the
end. An empty stream holds the command: what was done stays done, and `busy` says where it stopped (log 7). -/
def procLoop (u : UnitId) (sc : Bool) (n : Nat) : Nat → State → Outcome
  | 0, s => .next (respondOk n { s with busy := none })
  | left + 1, s =>
    match popIn0 s with
    | none => .next { s with busy := some ⟨u, sc, n, left + 1, none⟩ }
    | some (x, s1) =>
      match popSide sc s1 with
      | none => .next { s1 with busy := some ⟨u, sc, n, left + 1, some x⟩ }
      | some (e, s2) =>
        match unitSample u e x s2 with
        | .error why => .fault (faultOf why)
        | .ok (s3, y) => procLoop u sc n left (pushOut y s3)

/-- Go on with a `PROC` that holds: a sample already popped is popped again first. -/
def procResume (p : Busy) (s : State) : Outcome :=
  procLoop p.unit p.sc p.n p.left { s with in0 := p.x.toList ++ s.in0 }

/-- `PROC.SEC n` (R103). -/
def execProcSec (n : Nat) (s : State) : Outcome := procLoop .sec false n n s

/-- `PROC.SHLF n` (R128). -/
def execProcShlf (n : Nat) (s : State) : Outcome := procLoop .shlf false n n s

/-- `PROC.WAH n [, sc]` (R145). -/
def execProcWah (n : Nat) (sc : Bool) (s : State) : Outcome := procLoop .wah sc n n s

/-- `PROC.FLNG n` (R165). -/
def execProcFlng (n : Nat) (s : State) : Outcome := procLoop .flng false n n s

/-- `PROC.DIST n` (R186). -/
def execProcDist (n : Nat) (s : State) : Outcome := procLoop .dist false n n s

/-- `PROC.RVRB n` (R207): a pending rebuild comes first, also for `n = 0`. -/
def execProcRvrb (n : Nat) (s : State) : Outcome :=
  match rvrbRefresh s with
  | .error why => .fault (faultOf why)
  | .ok s' => procLoop .rvrb false n n s'

end Sys2Proof.Machine
end

