-- ==== Sys2Proof/Machine/Dispatch.lean ====
section
/-! DEFINITION. One arm per command of spec/opcode_table.json, each one direct call of its meaning. -/

namespace Sys2Proof.Machine

def exec (i : Instr) (s : State) : Host.Outcome State Fault Refusal :=
  match i with
  | .procSec n => Sys2Proof.Machine.execProcSec n s
  | .procShlf n => Sys2Proof.Machine.execProcShlf n s
  | .procWah n sc => Sys2Proof.Machine.execProcWah n sc s
  | .procFlng n => Sys2Proof.Machine.execProcFlng n s
  | .procDist n => Sys2Proof.Machine.execProcDist n s
  | .procRvrb n => Sys2Proof.Machine.execProcRvrb n s
  | .setEnabledShlf en => Sys2Proof.Machine.execSetEnabledShlf en s
  | .setEnabledWah en => Sys2Proof.Machine.execSetEnabledWah en s
  | .setEnabledFlng en => Sys2Proof.Machine.execSetEnabledFlng en s
  | .setEnabledDist en => Sys2Proof.Machine.execSetEnabledDist en s
  | .setEnabledRvrb en => Sys2Proof.Machine.execSetEnabledRvrb en s
  | .setWetGammaFlng g => Sys2Proof.Machine.execSetWetGammaFlng g s
  | .setWetGammaDist g => Sys2Proof.Machine.execSetWetGammaDist g s
  | .setWetGammaRvrb g => Sys2Proof.Machine.execSetWetGammaRvrb g s
  | .setLfoFreqWah v => Sys2Proof.Machine.execSetLfoFreqWah v s
  | .setLfoFreqFlng v => Sys2Proof.Machine.execSetLfoFreqFlng v s
  | .setTapsSec ffFirst ffLast fbLast => Sys2Proof.Machine.execSetTapsSec ffFirst ffLast fbLast s
  | .resetHistSec => Sys2Proof.Machine.execResetHistSec s
  | .setTypeShlf t => Sys2Proof.Machine.execSetTypeShlf t s
  | .setGainShlf g => Sys2Proof.Machine.execSetGainShlf g s
  | .setCutoffShlf c => Sys2Proof.Machine.execSetCutoffShlf c s
  | .setCutoffMinWah v => Sys2Proof.Machine.execSetCutoffMinWah v s
  | .setCutoffMaxWah v => Sys2Proof.Machine.execSetCutoffMaxWah v s
  | .setDampWah v => Sys2Proof.Machine.execSetDampWah v s
  | .setDistFuncDist code => Sys2Proof.Machine.execSetDistFuncDist code s
  | .setBoostDist b => Sys2Proof.Machine.execSetBoostDist b s
  | .setCombModeRvrb m => Sys2Proof.Machine.execSetCombModeRvrb m s
  | .setApModeRvrb m => Sys2Proof.Machine.execSetApModeRvrb m s

end Sys2Proof.Machine
end

