-- ==== Sys2Proof/Machine/Step.lean ====
section
/-! DEFINITION. One step of the block (spec/10_state.md R22, spec/60_exceptions.md R224, R226, R232,
spec/70_reset_and_hazards.md R242) and the placing of the next command word. -/

namespace Sys2Proof.Machine

/-- One step. A `PROC` that holds goes on if it can. Otherwise the word at the head of the command port is taken: a
command is executed, a word that encodes none is rejected. With no command and nothing in progress the block waits:
the state stays as it is until the host acts (log 8). -/
def step (s : State) : Host.Outcome State Fault Refusal :=
  match s.busy with
  | some p => procResume p s
  | none =>
    match takeCommand s with
    | none => .next s
    | some (w, s') =>
      match decode w with
      | .error cause => .next (reject (.illegalCommand cause) s')
      | .ok i => exec i s'

/-- The state with this command word at the head of the command port and no `PROC` in progress, so that the next step
takes it (log 9). Bits at and above `nbits` are zero. -/
def State.withFetchWord (s : State) (nbits w : Nat) : State :=
  { s with cmds := BitVec.ofNat 128 (w % 2 ^ nbits) :: s.cmds, busy := none }

end Sys2Proof.Machine
end

