-- ==== Sys2Proof/Machine/Ports.lean ====
section
/-! DEFINITION. What the host can do to the block between steps (spec/00_scope.md R5, R6; spec/20_memory.md R66;
spec/30_encoding.md R85). None of these is part of `step`. -/

namespace Sys2Proof.Machine

/-- The host issues a command word: it arrives behind those waiting (R6, R22). -/
def hostSubmit (w : CommandWord) (s : State) : State := { s with cmds := s.cmds ++ [w] }

/-- The host appends samples to `in0` (R66). -/
def hostSupply0 (xs : List F32) (s : State) : State := { s with in0 := s.in0 ++ xs }

/-- The host appends samples to `in1` (R66). -/
def hostSupply1 (xs : List F32) (s : State) : State := { s with in1 := s.in1 ++ xs }

/-- The host removes `n` samples from the head of `out` (R66). -/
def hostTakeOut (n : Nat) (s : State) : State := { s with out := s.out.drop n }

/-- The host takes `n` responses from the response port (R85). -/
def hostTakeResp (n : Nat) (s : State) : State := { s with resp := s.resp.drop n }

end Sys2Proof.Machine
end

