-- ==== Sys2Proof/Safety.lean ====
section
/-! DEFINITION. What a sound state of the block is, in the terms the claims use: the canonical form of its storage (every
ring keeps its capacity, spec/20_memory.md R61), the ranges spec/00_scope.md R7 and R17 give its integers, the
coefficients the Shelving parameters determine (spec/10_state.md R28, spec/41_biquad_shelving.md R127) and a `PROC` in
progress that makes sense (spec/20_memory.md R67). -/

namespace Sys2Proof.Machine

/-- A section record in canonical form: `1 <= D <= DMAX` and two rings of `D` entries (R25, R26). -/
structure Section.Ok (dmax : Nat) (S : Section) : Prop where
  pos : 1 ≤ S.d
  fits : S.d ≤ dmax
  xh : S.xh.length = S.d
  yh : S.yh.length = S.d

/-- The seven sections of the Reverb in canonical form (R32). -/
structure Bank.Ok (dmax : Nat) (b : Bank) : Prop where
  comb0 : b.comb0.Ok dmax
  comb1 : b.comb1.Ok dmax
  comb2 : b.comb2.Ok dmax
  comb3 : b.comb3.Ok dmax
  ap0 : b.ap0.Ok dmax
  ap1 : b.ap1.Ok dmax
  ap2 : b.ap2.Ok dmax

/-- The Flanger's delay line: `CAP` is the constant of R160 and the ring has `CAP` entries. -/
structure Flng.Ok (cfg : Cfg) (f : Flng) : Prop where
  cap : flngCapacity cfg = some (f.cap : Int)
  pos : 1 ≤ f.cap
  fits : f.cap ≤ cfg.capmax
  buf : f.buf.length = f.cap

/-- The Shelving registers: a valid cutoff (R127) and the coefficients `SHELF_DESIGN` gives for the three parameters
(R28). That `TYPE` is 0 or 1 holds by its type (log 14). -/
structure Shlf.Ok (cfg : Cfg) (f : Shlf) : Prop where
  cutoff : cutoffValid cfg f.cutoff = true
  coef : f.coef = designFor cfg f.shelfType f.gainDb f.cutoff

/-- A `PROC` that holds: samples are left, at most the `n` of the command; `SC` only on `WAH`, a waiting sample only with
`SC`; and no rebuild is pending on a Reverb block that has begun (R67, R87, R88). -/
structure Busy.Ok (s : State) (p : Busy) : Prop where
  some_left : 0 < p.left
  left_le : p.left ≤ p.n
  count : countFits p.n
  side : p.sc = true → p.unit = .wah
  waiting : p.x.isSome = true → p.sc = true
  built : p.unit = .rvrb → s.rvrb.dirty = false

/-- The invariant of the block. -/
structure State.Inv (s : State) : Prop where
  cfg : cfgSizesOk s.cfg = true
  sec : s.sec.Ok s.cfg.dmax
  secD : s.sec.d = s.cfg.secD
  shlf : s.shlf.Ok s.cfg
  flng : s.flng.Ok s.cfg
  bank : s.rvrb.bank.Ok s.cfg.dmax
  busy : ∀ p, s.busy = some p → p.Ok s

/-- The phases an LFO goes through from `phase` on: `n` advances (R142, R162). Only whether they are finite matters to
the claims, so the index of the free values is no matter. -/
def phaseAfter (N : Numerics) (fs freq phase : F32) : Nat → F32
  | 0 => phase
  | n + 1 => lfoAdvance N 0 fs freq (phaseAfter N fs freq phase n)

/-- The Flanger's LFO angle stays finite for the next `n` samples: the condition under which its tap index is inside the
buffer (R163). -/
def flngAngleFinite (s : State) (n : Nat) : Prop :=
  ∀ k < n, isFinite (lfoAngle (numOf s.cfg) 0
    (phaseAfter (numOf s.cfg) s.cfg.fs s.flng.lfoFreq s.flng.phase k) s.flng.lfoFreq) = true

/-- A rebuild with the present modes computes legal sizes whatever is drawn: both modes preset, or, under binary32, the
further condition of R206 on the configuration. -/
def rebuildSafe (s : State) : Prop :=
  (s.rvrb.combMode = .preset ∧ s.rvrb.apMode = .preset) ∨ (s.cfg.num = .binary32 ∧ cfgRandomOk s.cfg = true)

end Sys2Proof.Machine
end

