-- ==== Sys2Proof/Certificates/Slice0/Obligations.lean ====
section
/-! DEFINITION. The statements for the provers. `Sys2Proof.Claims` holds the words they are said in: running a unit's
per-sample function over a list of samples, and when two states are the same but for NaN payloads. -/

namespace Sys2Proof.Claims

open Sys2Proof Sys2Proof.Machine

/-- Run a unit's datapath over a list of inputs: the state after the last, and the outputs in order. `d` is how many
free values one sample may use. -/
def fold {σ α : Type} (f : Nat → σ → α → σ × F32) (d : Nat) : Nat → σ → List α → σ × List F32
  | _, st, [] => (st, [])
  | k, st, x :: xs => ((fold f d (k + d) (f k st x).1 xs).1, (f k st x).2 :: (fold f d (k + d) (f k st x).1 xs).2)

/-- The same for a datapath that may meet a situation without a meaning. -/
def foldE {σ α : Type} (f : Nat → σ → α → Except NoMeaning (σ × F32)) (d : Nat) :
    Nat → σ → List α → Except NoMeaning (σ × List F32)
  | _, st, [] => .ok (st, [])
  | k, st, x :: xs =>
    match f k st x with
    | .error why => .error why
    | .ok r =>
      match foldE f d (k + d) r.1 xs with
      | .error why => .error why
      | .ok rest => .ok (rest.1, r.2 :: rest.2)

/-- The `PROC` command of a unit (`sc` counts for `WAH` only). -/
def procCommand (u : UnitId) (n : Nat) (sc : Bool) : Instr :=
  match u with
  | .sec => .procSec n
  | .shlf => .procShlf n
  | .wah => .procWah n sc
  | .flng => .procFlng n
  | .dist => .procDist n
  | .rvrb => .procRvrb n

/-- What a `PROC` does before its first sample: the pending rebuild, on `RVRB` only. -/
def started (u : UnitId) (s : State) : Except NoMeaning State :=
  match u with
  | .rvrb => rvrbRefresh s
  | .sec => .ok s
  | .shlf => .ok s
  | .wah => .ok s
  | .flng => .ok s
  | .dist => .ok s

/-- How many samples a `PROC` can process with what the streams hold. -/
def available (sc : Bool) (s : State) : Nat := if sc then min s.in0.length s.in1.length else s.in0.length

/-- The first `n` samples, each with its side-chain sample when `SC = 1`. -/
def samples (sc : Bool) (n : Nat) (s : State) : List (Option F32 × F32) :=
  if sc then ((s.in1.take n).map some).zip (s.in0.take n) else (s.in0.take n).map fun x => (none, x)

/-- Run the per-sample function of a unit over samples (R87), the streams aside. -/
def runSamples (u : UnitId) : List (Option F32 × F32) → State → Except NoMeaning (State × List F32)
  | [], s => .ok (s, [])
  | p :: ps, s =>
    match unitSample u p.1 p.2 s with
    | .error why => .error why
    | .ok r =>
      match runSamples u ps r.1 with
      | .error why => .error why
      | .ok rest => .ok (rest.1, r.2 :: rest.2)

/-- The state after a whole block of `n` samples: `t` holds the registers, `ys` the outputs; the samples used are gone
from the streams and `OK(n)` has been answered. -/
def blockDone (n : Nat) (sc : Bool) (s t : State) (ys : List F32) : State :=
  { t with
    in0 := s.in0.drop n
    in1 := if sc then s.in1.drop n else s.in1
    out := s.out ++ ys
    busy := none
    resp := s.resp ++ [BitVec.ofNat 32 n ++ 0#32] }

/-- A sample popped from `in0` and not yet processed. -/
def waiting (s : State) : Nat :=
  match s.busy with
  | none => 0
  | some p => if p.x.isSome then 1 else 0

/-- One Wah sample before the enable bit, spelled out from R140 to R144: `p` is the side-chain sample, if there is one,
and the input. Free values `k` to `k + 19`. -/
def wahOne (N : Numerics) (fs : F32) (k : Nat) (w : Wah) (p : Option F32 × F32) : Wah × F32 :=
  let p1 := N.add (k + 4) w.phase (N.div (k + 3) twoPi32 fs)
  let phase := match p.1 with
    | some _ => w.phase
    | none => if N.lt (N.div (k + 5) twoPi32 w.lfoFreq) p1 then 0#32 else p1
  let env := match p.1 with
    | some e => e
    | none => N.add (k + 2) half (N.mul (k + 1) half (N.sin (N.mul k w.phase w.lfoFreq)))
  let fc := N.add (k + 8) w.cutoffMin (N.mul (k + 7) (N.sub (k + 6) w.cutoffMax w.cutoffMin) env)
  let f := N.mul (k + 11) two (N.sin (N.div (k + 10) (N.mul (k + 9) pi32 fc) fs))
  let q := N.div (k + 12) w.damp sqrt2_32
  let hp := N.sub (k + 15) (N.sub (k + 13) p.2 w.yLp) (N.mul (k + 14) q w.yBp)
  let bp := N.add (k + 17) (N.mul (k + 16) f hp) w.yBp
  let lp := N.add (k + 19) (N.mul (k + 18) f bp) w.yLp
  ({ w with phase := phase, yHp := hp, yBp := bp, yLp := lp }, bp)

/-- The magnitude bits `m` are those of the binary32 number nearest to `n / d` units of `2^-149`, a tie taken to the
even significand; the infinity's from half a unit above the largest finite number on, which is `2^277 - 2^253` (R14).
-/
structure Nearest (n d m : Nat) : Prop where
  overflow : m = infMag ↔ (2 ^ 277 - 2 ^ 252) * d ≤ n
  bounded : m ≤ infMag
  nearest : m < infMag → ∀ m' < infMag,
    ((scaledMag m * d : Int) - n).natAbs ≤ ((scaledMag m' * d : Int) - n).natAbs
  tie : m < infMag → ∀ m' < infMag, m' ≠ m →
    ((scaledMag m * d : Int) - n).natAbs = ((scaledMag m' * d : Int) - n).natAbs → m % 2 = 0

/-- `r` is the sum of exact value `v` (in units of `2^-149`), rounded once: its sign that of `v`; the zero `z` where
`v` is 0 (R14). -/
def RoundedSum (v : Int) (z r : F32) : Prop :=
  if v = 0 then r = z else ∃ m, Nearest v.natAbs 1 m ∧ r = packF (decide (v < 0)) m

/-- Amplitudes of a comb's echoes, `1, g, g (*) g, ...` (R108); the `(+) +0.0` only turns a `-0.0` into `+0.0`. -/
def echo (g : F32) : Nat → F32
  | 0 => one
  | j + 1 => fadd 0 (fmul 0 g (echo g j)) posZero

/-- The registers of the units that a parameter change must not disturb: histories, delay registers, filter outputs,
phases (R23). -/
def filterState (s : State) : List (List F32) :=
  [ s.sec.xh, s.sec.yh, [s.shlf.z1, s.shlf.z2], [s.wah.yLp, s.wah.yBp, s.wah.yHp, s.wah.phase], s.flng.buf,
    [s.flng.phase] ]

/-! ## Sameness but for the payloads of NaNs (R14: "never relied on") -/

/-- Equal, or both NaN. -/
def SameF (a b : F32) : Prop := a = b ∨ (isNaN a = true ∧ isNaN b = true)

/-- Entry by entry. -/
def SameL (a b : List F32) : Prop := List.Forall₂ SameF a b

/-- Sections with equal parameters and the same histories. -/
structure SameSection (S T : Section) : Prop where
  d : S.d = T.d
  ffFirst : S.ffFirst = T.ffFirst
  ffLast : S.ffLast = T.ffLast
  fbLast : S.fbLast = T.fbLast
  xh : SameL S.xh T.xh
  yh : SameL S.yh T.yh

/-- Banks of the same sections. -/
structure SameBank (a b : Bank) : Prop where
  comb0 : SameSection a.comb0 b.comb0
  comb1 : SameSection a.comb1 b.comb1
  comb2 : SameSection a.comb2 b.comb2
  comb3 : SameSection a.comb3 b.comb3
  ap0 : SameSection a.ap0 b.ap0
  ap1 : SameSection a.ap1 b.ap1
  ap2 : SameSection a.ap2 b.ap2

/-- A `PROC` that holds at the same place. -/
def SameBusy (a b : Option Busy) : Prop :=
  match a, b with
  | none, none => True
  | some p, some q =>
    p.unit = q.unit ∧ p.sc = q.sc ∧ p.n = q.n ∧ p.left = q.left ∧ SameL p.x.toList q.x.toList
  | none, some _ => False
  | some _, none => False

/-- Equal parameters, the same filter state and streams; how many free values have been used may differ. -/
structure SameState (s t : State) : Prop where
  cfg : s.cfg = t.cfg
  sec : SameSection s.sec t.sec
  shlfParams : { s.shlf with z1 := posZero, z2 := posZero } = { t.shlf with z1 := posZero, z2 := posZero }
  shlfState : SameL [s.shlf.z1, s.shlf.z2] [t.shlf.z1, t.shlf.z2]
  wahParams : { s.wah with yLp := posZero, yBp := posZero, yHp := posZero, phase := posZero } =
    { t.wah with yLp := posZero, yBp := posZero, yHp := posZero, phase := posZero }
  wahState : SameL [s.wah.yLp, s.wah.yBp, s.wah.yHp, s.wah.phase] [t.wah.yLp, t.wah.yBp, t.wah.yHp, t.wah.phase]
  flngParams : { s.flng with buf := [], phase := posZero } = { t.flng with buf := [], phase := posZero }
  flngState : SameL (s.flng.phase :: s.flng.buf) (t.flng.phase :: t.flng.buf)
  dist : s.dist = t.dist
  rvrbParams : { s.rvrb with bank := t.rvrb.bank } = t.rvrb
  bank : SameBank s.rvrb.bank t.rvrb.bank
  in0 : SameL s.in0 t.in0
  in1 : SameL s.in1 t.in1
  out : SameL s.out t.out
  cmds : s.cmds = t.cmds
  resp : s.resp = t.resp
  busy : SameBusy s.busy t.busy

/-- Steps that end the same way. -/
def SameOutcome (a b : Outcome) : Prop :=
  match a, b with
  | .next s, .next t => SameState s t
  | .fault q, .fault r => q = r
  | .refused q, .refused r => q = r
  | _, _ => False

end Sys2Proof.Claims

open Sys2Proof Sys2Proof.Machine Sys2Proof.Claims

/-! ## Encoding -/

/-- R80 to R83: decoding the encoded word of a well-formed command gives the command back, every operand at every
value. -/
def Obligations.DecodeEncodeReturnsTheCommand : Prop :=
  ∀ i : Instr, i.wf = true → decode (encode i) = .ok i

/-- R80 to R83: a word that decodes is the encoding of the command it decodes to: each command has one word. -/
def Obligations.EncodeDecodeReturnsTheWord : Prop :=
  ∀ (w : CommandWord) (i : Instr), decode w = .ok i → i.wf = true ∧ encode i = w

/-- R83: a word is the legal command of a row exactly when `W & mask = match`; the command it decodes to is that of the
row's (`OPC`, `UNIT`) pair; no word matches two rows. -/
def Obligations.DecoderAcceptsExactlyTheTableRows : Prop :=
  opcodeTable.length = 28 ∧
  (∀ w : CommandWord, ∀ r ∈ opcodeTable, (r.accepts w = true ↔
    ∃ i, decode w = .ok i ∧ opcode i = opcField r.pattern ∧ unitCode i.unit = unitField r.pattern)) ∧
  (∀ (w : CommandWord) (i : Instr), decode w = .ok i → ∃ r ∈ opcodeTable, r.accepts w = true) ∧
  (∀ w : CommandWord, ∀ r ∈ opcodeTable, ∀ r' ∈ opcodeTable, r.accepts w = true → r'.accepts w = true → r = r')

/-- R226 (1) to (3), R84, R88: the cause of an illegal word is the first failing check. -/
def Obligations.IllegalCauseIsTheFirstFailingCheck : Prop :=
  ∀ w : CommandWord,
    (decode w = .error .opcode ↔ ∀ r ∈ opcodeTable, opcField r.pattern ≠ opcField w) ∧
    (decode w = .error .unit ↔ (∃ r ∈ opcodeTable, opcField r.pattern = opcField w) ∧
      ∀ r ∈ opcodeTable, opcField r.pattern = opcField w → unitField r.pattern ≠ unitField w) ∧
    (decode w = .error .reserved ↔
      (∃ r ∈ opcodeTable, opcField r.pattern = opcField w ∧ unitField r.pattern = unitField w) ∧
      ∀ r ∈ opcodeTable, r.accepts w = false)

/-- R90 and spec/95_test_vectors.md E1 to E16: words the spec writes out, one per unit at least, and words it calls
illegal. -/
def Obligations.WordsOfTheSpecDecodeAsItSays : Prop :=
  decode 0x10000000_3F000000_3F800000_00000000#128 = .ok (.setTapsSec 0#32 0x3F800000#32 0x3F000000#32) ∧
  decode 0x01020000_00000000_00000001_00000040#128 = .ok (.procWah 64 true) ∧
  decode 0x11000000_00000000_00000000_00000000#128 = .ok .resetHistSec ∧
  decode 0x50040000_00000000_00000000_00000051#128 = .ok (.setDistFuncDist 0x51#32) ∧
  decode 0x22010000_00000000_00000000_46BB8000#128 = .ok (.setCutoffShlf 0x46BB8000#32) ∧
  decode 0x01030000_00000000_00000000_00000005#128 = .ok (.procFlng 5) ∧
  decode 0x60050000_00000000_00000000_00000000#128 = .ok (.setCombModeRvrb .preset) ∧
  decode 0x7F010000_00000000_00000000_00000000#128 = .error .opcode ∧
  decode 0x10010000_00000000_00000000_00000000#128 = .error .unit ∧
  decode 0x01010000_00000000_00000001_00000003#128 = .error .reserved ∧
  decode 0x02010000_00000000_00000000_00000002#128 = .error .reserved

/-! ## Stepping -/

/-- R22: with no `PROC` in progress, the step on a word that decodes is the execution of its command, the word taken
from the command port; and a word placed for fetching is the one taken. -/
def Obligations.StepRunsTheDecodedCommand : Prop :=
  (∀ (s : State) (w : CommandWord) (ws : List CommandWord) (i : Instr), s.busy = none → s.cmds = w :: ws →
    decode w = .ok i → step s = exec i { s with cmds := ws }) ∧
  (∀ (s : State) (w : CommandWord) (i : Instr), decode w = .ok i →
    step (s.withFetchWord 128 w.toNat) = exec i { s with busy := none })

/-- R88, R223, R224: a word that encodes no command is answered `ILLEGAL_COMMAND` with its cause and `COUNT = 0`, and
nothing else changes. -/
def Obligations.StepRejectsAnIllegalWord : Prop :=
  ∀ (s : State) (w : CommandWord) (ws : List CommandWord), s.busy = none → s.cmds = w :: ws →
    (decode w = .error .opcode → step s = .next { s with cmds := ws, resp := s.resp ++ [0x102#64] }) ∧
    (decode w = .error .unit → step s = .next { s with cmds := ws, resp := s.resp ++ [0x202#64] }) ∧
    (decode w = .error .reserved → step s = .next { s with cmds := ws, resp := s.resp ++ [0x302#64] })

/-- R67, R232, R242: with no command the block waits; a `PROC` that holds makes no step while the stream it waits for
is empty, and takes no later command. -/
def Obligations.BlockMakesNoStepWhileItWaits : Prop :=
  ∀ s : State,
    (s.busy = none → s.cmds = [] → step s = .next s) ∧
    (∀ p, s.busy = some p → 0 < p.left → p.x = none → s.in0 = [] → step s = .next s) ∧
    (∀ p x, s.busy = some p → 0 < p.left → p.sc = true → p.x = some x → s.in1 = [] → step s = .next s)

/-- R85: a step answers exactly once, when its command has completed or been rejected, and not while the command holds;
only the command taken leaves the command port. -/
def Obligations.EveryCommandIsAnsweredOnce : Prop :=
  ∀ s t : State, step s = .next t → (s.busy = none → s.cmds ≠ []) →
    (t.cmds = if s.busy.isSome then s.cmds else s.cmds.tail) ∧
    ((t.busy = none ∧ ∃ r, t.resp = s.resp ++ [r]) ∨ (t.busy.isSome = true ∧ t.resp = s.resp))

/-- R68, R87: `PROC` produces an equal-length stream: whatever a step pops from `in0` it pushes to `out` (a sample
waiting for its side-chain counted until then), and `out` is only appended to. -/
def Obligations.SamplesOutEqualSamplesIn : Prop :=
  ∀ s t : State, step s = .next t →
    t.out.length + t.in0.length + waiting t = s.out.length + s.in0.length + waiting s ∧
    (∃ ys, t.out = s.out ++ ys)

/-- R67, R87: a `PROC n` with fewer than `n` samples processes those there are, answers nothing and holds, with a
sample already popped from `in0` kept when it is `in1` that is empty. -/
def Obligations.ProcHoldsWhereItsSamplesRunOut : Prop :=
  ∀ (u : UnitId) (n : Nat) (sc : Bool) (s s0 : State), (sc = true → u = .wah) → started u s = .ok s0 →
    available sc s < n →
    (∀ why, runSamples u (samples sc (available sc s) s) s0 = .error why →
      exec (procCommand u n sc) s = .fault (faultOf why)) ∧
    (∀ t ys, runSamples u (samples sc (available sc s) s) s0 = .ok (t, ys) →
      exec (procCommand u n sc) s = .next
        { t with
          in0 := s.in0.drop (available sc s + 1)
          in1 := if sc then s.in1.drop (available sc s) else s.in1
          out := s.out ++ ys
          busy := some ⟨u, sc, n, n - available sc s, s.in0[available sc s]?⟩ })

/-- R66, R67: it makes no difference whether the host supplies samples before a `PROC` or while it holds: the next step
then ends as the command would have ended with all of them supplied at once. -/
def Obligations.SupplyingWhileHeldIsSupplyingBefore : Prop :=
  ∀ (u : UnitId) (n : Nat) (sc : Bool) (s t : State) (xs es : List F32), (sc = true → u = .wah) →
    exec (procCommand u n sc) s = .next t → t.busy.isSome = true →
    step (hostSupply0 xs (hostSupply1 es t)) = exec (procCommand u n sc) (hostSupply0 xs (hostSupply1 es s))

/-! ## Reset -/

/-- R36: what reset leaves, for every configuration that has a reset state. The four last clauses (ports, command in
progress, configuration) are the model's own (log 1, 7, 8). -/
def Obligations.ResetGivesTheListedValues : Prop :=
  ∀ (cfg : Cfg) (k : Nat) (s : State), resetOf cfg k = .ok s →
    s.sec = { d := cfg.secD, ffFirst := cfg.secInit.ffFirst, ffLast := cfg.secInit.ffLast,
              fbLast := cfg.secInit.fbLast, xh := List.replicate cfg.secD 0#32, yh := List.replicate cfg.secD 0#32 } ∧
    (some s.shlf.shelfType = shelfTypeOf cfg.shlfInit.shelfType ∧ s.shlf.gainDb = cfg.shlfInit.gainDb ∧
      s.shlf.cutoff = cfg.shlfInit.cutoff ∧ s.shlf.en = cfg.shlfInit.enabled ∧
      s.shlf.coef = designFor cfg s.shlf.shelfType cfg.shlfInit.gainDb cfg.shlfInit.cutoff ∧
      s.shlf.z1 = 0#32 ∧ s.shlf.z2 = 0#32) ∧
    s.wah = { cutoffMin := cfg.wahInit.cutoffMin, cutoffMax := cfg.wahInit.cutoffMax, damp := cfg.wahInit.damp,
              lfoFreq := cfg.wahInit.lfoFreq, en := cfg.wahInit.enabled, yLp := 0#32, yBp := 0#32, yHp := 0#32,
              phase := 0#32 } ∧
    (roundI ((numOf cfg).mul 0 cfg.fs cfg.flngMaxDelay) = some (s.flng.cap : Int) ∧
      s.flng.lfoFreq = cfg.flngInit.lfoFreq ∧ s.flng.wetGamma = cfg.flngInit.wetGamma ∧ s.flng.en = cfg.flngInit.enabled ∧
      s.flng.buf = List.replicate s.flng.cap 0#32 ∧ s.flng.phase = 0#32) ∧
    (some s.dist.func = curveOf cfg.distInit.func ∧ s.dist.boost = cfg.distInit.boost ∧
      s.dist.wetGamma = cfg.distInit.wetGamma ∧ s.dist.en = cfg.distInit.enabled) ∧
    (s.rvrb.combMode = cfg.rvrbInit.combMode ∧ s.rvrb.apMode = cfg.rvrbInit.apMode ∧
      s.rvrb.wetGamma = cfg.rvrbInit.wetGamma ∧ s.rvrb.en = cfg.rvrbInit.enabled ∧ s.rvrb.dirty = false ∧
      buildBank cfg cfg.rvrbInit.combMode cfg.rvrbInit.apMode k = .ok s.rvrb.bank) ∧
    (s.in0 = [] ∧ s.in1 = [] ∧ s.out = []) ∧
    s.cmds = [] ∧ s.resp = [] ∧ s.busy = none ∧ s.cfg = cfg

/-- R241, R240, R7, R8, R206: a configuration with illegal sizes has no state; else construction is rejected with
cause 2, 3 or 1, checked in the unit order; and a configuration with none of these and (in random mode, under
binary32) the further condition of R206 has a reset state. -/
def Obligations.ResetRejectsInTheOrderOfTheUnits : Prop :=
  ∀ (cfg : Cfg) (k : Nat),
    (cfgSizesOk cfg = false → resetOf cfg k = .error .illFormed) ∧
    (cfgSizesOk cfg = true → cfg.shlfInit.shelfType ≠ 0#32 → cfg.shlfInit.shelfType ≠ 1#32 →
      resetOf cfg k = .error (.invalidParameter .shelfType)) ∧
    (cfgSizesOk cfg = true → shelfTypeOf cfg.shlfInit.shelfType ≠ none →
      cutoffValid cfg cfg.shlfInit.cutoff = false → resetOf cfg k = .error (.invalidParameter .cutoff)) ∧
    (cfgSizesOk cfg = true → shelfTypeOf cfg.shlfInit.shelfType ≠ none →
      cutoffValid cfg cfg.shlfInit.cutoff = true → curveOf cfg.distInit.func = none →
      resetOf cfg k = .error (.invalidParameter .curve)) ∧
    (cfgSizesOk cfg = true → shelfTypeOf cfg.shlfInit.shelfType ≠ none →
      cutoffValid cfg cfg.shlfInit.cutoff = true → curveOf cfg.distInit.func ≠ none →
      (cfg.rvrbInit.combMode = .preset ∧ cfg.rvrbInit.apMode = .preset) ∨
        (cfg.num = .binary32 ∧ cfgRandomOk cfg = true) →
      ∃ s, resetOf cfg k = .ok s)

/-- Every state reset yields meets the invariant. -/
def Obligations.ResetMeetsTheInvariant : Prop :=
  ∀ (cfg : Cfg) (k : Nat) (s : State), resetOf cfg k = .ok s → s.Inv

/-- The model's own reset state (log 2) is what reset yields for its configuration, and meets the invariant. -/
def Obligations.StateResetMeetsTheInvariant : Prop :=
  resetOf Config.cfg0 0 = .ok State.reset ∧ State.reset.Inv

/-! ## The whole machine -/

/-- The invariant of Safety.lean: rings keep their capacity, sizes stay in range, the Shelving coefficients are those
of the parameters and its cutoff is valid, a `PROC` in progress makes sense. Every step keeps it. -/
def Obligations.StepKeepsTheInvariant : Prop :=
  ∀ s t : State, s.Inv → step s = .next t → t.Inv

/-- R7, R27, R30: the configuration, `SEC.D` and `FLNG.CAP` never change. -/
def Obligations.StepKeepsTheConstants : Prop :=
  ∀ s t : State, step s = .next t → t.cfg = s.cfg ∧ t.sec.d = s.sec.d ∧ t.flng.cap = s.flng.cap

/-- R23: a command other than `PROC` and `RESET_HIST.SEC` disturbs no history, delay register, filter output, phase or
section of the Reverb; and `RESET_HIST.SEC` only the two histories of `SEC`. -/
def Obligations.ParameterChangesKeepTheFilterState : Prop :=
  ∀ (i : Instr) (s t : State), i.isProc = false → exec i s = .next t →
    (i ≠ .resetHistSec → filterState t = filterState s) ∧
    (filterState t).drop 2 = (filterState s).drop 2 ∧ t.rvrb.bank = s.rvrb.bank

/-- R76, R66: a command changes only the registers of its own unit, the streams (a `PROC` only), the response port, and
whether it holds; the commands that wait are not touched. -/
def Obligations.CommandsReachOnlyTheirOwnUnit : Prop :=
  ∀ (i : Instr) (s t : State), exec i s = .next t →
    t.cfg = s.cfg ∧ t.cmds = s.cmds ∧
    (i.unit ≠ .sec → t.sec = s.sec) ∧ (i.unit ≠ .shlf → t.shlf = s.shlf) ∧ (i.unit ≠ .wah → t.wah = s.wah) ∧
    (i.unit ≠ .flng → t.flng = s.flng) ∧ (i.unit ≠ .dist → t.dist = s.dist) ∧ (i.unit ≠ .rvrb → t.rvrb = s.rvrb) ∧
    (i.isProc = false → t.in0 = s.in0 ∧ t.in1 = s.in1 ∧ t.out = s.out ∧ t.busy = s.busy ∧ t.draws = s.draws) ∧
    ((∀ n, i ≠ .procWah n true) → t.in1 = s.in1)

/-- R76: commands to different units, none a `PROC`, leave the same state in either order, their answers in the order
they were given. -/
def Obligations.CommandsToDifferentUnitsCommute : Prop :=
  ∀ (i j : Instr) (s : State), i.isProc = false → j.isProc = false → i.unit ≠ j.unit →
    ∃ a b t : State, ∃ r q : ResponseWord,
      exec i s = .next a ∧ exec j s = .next b ∧
      exec j a = .next { t with resp := s.resp ++ [r, q] } ∧
      exec i b = .next { t with resp := s.resp ++ [q, r] }

/-- R225: only `PROC.FLNG` and `PROC.RVRB` can fault, each with the faults the rule lists for it, and no command is
refused. -/
def Obligations.OnlyFlangerAndReverbBlocksCanFault : Prop :=
  ∀ (i : Instr) (s : State),
    (∀ r, exec i s ≠ .refused r) ∧
    (∀ r, exec i s = .fault r →
      (∃ n, i = .procFlng n ∧ (r = .fRound ∨ r = .fTapIndex)) ∨
      (∃ n, i = .procRvrb n ∧ (r = .fRound ∨ r = .fSectionD)))

/-- R225: under binary32, from a sound state no fault is reachable in a step, provided a pending rebuild has legal
sizes (R206) and the Flanger's LFO angle stays finite (R163; log 17 says why finiteness of `LFO_FREQ` alone is not
enough). -/
def Obligations.SoundBlockNeverStops : Prop :=
  ∀ s : State, s.cfg.num = .binary32 → s.Inv → (s.rvrb.dirty = true → rebuildSafe s) →
    flngAngleFinite s s.in0.length →
    ∃ t, step s = .next t

/-- R213, R109, R14: under binary32 and with both modes preset, the outputs and all later states are determined by the
state and the inputs, except for the payloads of NaNs: blocks that agree but for NaN payloads and the free values used
so far stay so. -/
def Obligations.PresetBlockIsDeterministicUpToNaNPayloads : Prop :=
  ∀ s t : State, SameState s t → s.cfg.num = .binary32 → s.rvrb.combMode = .preset → s.rvrb.apMode = .preset →
    SameOutcome (step s) (step t)

/-- R249, R144: `SHLF`, `WAH`, `FLNG` and `RVRB` advance their state while disabled exactly as while enabled: two runs
that differ in the enable bit end in states that differ in it and in the output stream alone. -/
def Obligations.DisabledUnitsKeepRunning : Prop :=
  ∀ (n : Nat) (sc : Bool) (s a b : State),
    (exec (.procShlf n) { s with shlf := { s.shlf with en := false } } = .next a →
      exec (.procShlf n) { s with shlf := { s.shlf with en := true } } = .next b →
      { a with shlf := { a.shlf with en := true }, out := [] } = { b with out := [] }) ∧
    (exec (.procWah n sc) { s with wah := { s.wah with en := false } } = .next a →
      exec (.procWah n sc) { s with wah := { s.wah with en := true } } = .next b →
      { a with wah := { a.wah with en := true }, out := [] } = { b with out := [] }) ∧
    (exec (.procFlng n) { s with flng := { s.flng with en := false } } = .next a →
      exec (.procFlng n) { s with flng := { s.flng with en := true } } = .next b →
      { a with flng := { a.flng with en := true }, out := [] } = { b with out := [] }) ∧
    (exec (.procRvrb n) { s with rvrb := { s.rvrb with en := false } } = .next a →
      exec (.procRvrb n) { s with rvrb := { s.rvrb with en := true } } = .next b →
      { a with rvrb := { a.rvrb with en := true }, out := [] } = { b with out := [] })

/-- R128, R144, R164, R183, R212: a disabled unit's output block is its input block, bit for bit, NaN payloads
included. -/
def Obligations.DisabledUnitsPassSamplesBitForBit : Prop :=
  ∀ (n : Nat) (sc : Bool) (s t : State), n ≤ available sc s →
    (s.shlf.en = false → exec (.procShlf n) s = .next t → t.out = s.out ++ s.in0.take n) ∧
    (s.wah.en = false → exec (.procWah n sc) s = .next t → t.out = s.out ++ s.in0.take n) ∧
    (s.flng.en = false → exec (.procFlng n) s = .next t → t.out = s.out ++ s.in0.take n) ∧
    (s.dist.en = false → exec (.procDist n) s = .next t → t.out = s.out ++ s.in0.take n) ∧
    (s.rvrb.en = false → exec (.procRvrb n) s = .next t → t.out = s.out ++ s.in0.take n)

/-- R14, R11, R16: under binary32 the four operations give the exact result rounded once, to nearest, ties to even,
with IEEE's zeros, infinities and NaNs; `round_i` rounds to the nearest integer, ties away from zero. Values are in
units of `2^-149`; that of an infinity is `2^277`, above every finite one. -/
def Obligations.OperationsAreTheRoundedExactResults : Prop :=
  (∀ n d : Nat, 0 < d → Nearest n d (roundMag n d)) ∧
  (∀ (k : Nat) (a b : F32), isFinite a = true → isFinite b = true →
    RoundedSum (fval a + fval b) (if a = negZero ∧ b = negZero then negZero else posZero) (binary32.add k a b) ∧
    RoundedSum (fval a - fval b) (if a = negZero ∧ b = posZero then negZero else posZero) (binary32.sub k a b) ∧
    (∃ m, Nearest (scaledMag (fmag a) * scaledMag (fmag b)) (2 ^ 149) m ∧
      binary32.mul k a b = packF (fsign a != fsign b) m) ∧
    (isZero b = false → ∃ m, Nearest (scaledMag (fmag a) * 2 ^ 149) (scaledMag (fmag b)) m ∧
      binary32.div k a b = packF (fsign a != fsign b) m) ∧
    (isZero b = true → isZero a = false → binary32.div k a b = packF (fsign a != fsign b) infMag)) ∧
  (∀ (k : Nat) (a b : F32), isInf a = true → isFinite b = true →
    binary32.add k a b = a ∧ binary32.add k b a = a ∧ binary32.sub k a b = a ∧ binary32.sub k b a = fneg a ∧
    binary32.div k a b = packF (fsign a != fsign b) infMag ∧ binary32.div k b a = packF (fsign b != fsign a) 0) ∧
  (∀ (k : Nat) (a b : F32), isInf a = true → isInf b = true → (fsign a = fsign b → binary32.add k a b = a) ∧
    (fsign a ≠ fsign b → binary32.sub k a b = a)) ∧
  (∀ (k : Nat) (a b : F32), isInf a = true → isNaN b = false → isZero b = false →
    binary32.mul k a b = packF (fsign a != fsign b) infMag ∧
    binary32.mul k b a = packF (fsign b != fsign a) infMag) ∧
  (∀ (k : Nat) (a b : F32),
    (isNaN (binary32.add k a b) = true ↔
      isNaN a = true ∨ isNaN b = true ∨ (isInf a = true ∧ isInf b = true ∧ fsign a ≠ fsign b)) ∧
    (isNaN (binary32.sub k a b) = true ↔
      isNaN a = true ∨ isNaN b = true ∨ (isInf a = true ∧ isInf b = true ∧ fsign a = fsign b)) ∧
    (isNaN (binary32.mul k a b) = true ↔ isNaN a = true ∨ isNaN b = true ∨ (isInf a = true ∧ isZero b = true) ∨
      (isZero a = true ∧ isInf b = true)) ∧
    (isNaN (binary32.div k a b) = true ↔ isNaN a = true ∨ isNaN b = true ∨ (isInf a = true ∧ isInf b = true) ∨
      (isZero a = true ∧ isZero b = true))) ∧
  (∀ a b : F32,
    (binary32.lt a b = true ↔ isNaN a = false ∧ isNaN b = false ∧ fval a < fval b) ∧
    (binary32.le a b = true ↔ isNaN a = false ∧ isNaN b = false ∧ fval a ≤ fval b) ∧
    (binary32.eq a b = true ↔ isNaN a = false ∧ isNaN b = false ∧ fval a = fval b)) ∧
  (∀ a : F32, (isFinite a = false → roundI a = none) ∧
    (isFinite a = true → ∃ i : Int, roundI a = some i ∧ 2 * (i * 2 ^ 149 - fval a).natAbs ≤ 2 ^ 149 ∧
      (2 * (i * 2 ^ 149 - fval a).natAbs = 2 ^ 149 → (fval a).natAbs < (i * 2 ^ 149).natAbs)))

/-! ## Commands that write one register -/

/-- R132, R150, R168, R190, R211: `SET_ENABLED` writes the enable bit of its unit, answers `OK(0)` and changes nothing
else. -/
def Obligations.SetEnabledWritesTheEnableBit : Prop :=
  ∀ (en : Bool) (s : State),
    exec (.setEnabledShlf en) s =
      .next { s with shlf := { s.shlf with en := en }, resp := s.resp ++ [0#64] } ∧
    exec (.setEnabledWah en) s = .next { s with wah := { s.wah with en := en }, resp := s.resp ++ [0#64] } ∧
    exec (.setEnabledFlng en) s = .next { s with flng := { s.flng with en := en }, resp := s.resp ++ [0#64] } ∧
    exec (.setEnabledDist en) s = .next { s with dist := { s.dist with en := en }, resp := s.resp ++ [0#64] } ∧
    exec (.setEnabledRvrb en) s = .next { s with rvrb := { s.rvrb with en := en }, resp := s.resp ++ [0#64] }

/-- R146 to R149, R166, R167, R188, R189, R210: a `SET` of an `f32` parameter takes every pattern, writes that
register, answers `OK(0)` and changes nothing else (`SET_WET_GAMMA.RVRB` does not set `DIRTY`). R208, R209: a mode
write writes the mode and sets `DIRTY`, also when the mode is the old one; the sections are not touched. -/
def Obligations.ParameterCommandsWriteTheirRegister : Prop :=
  ∀ (v : F32) (m : Mode) (s : State),
    exec (.setCutoffMinWah v) s =
      .next { s with wah := { s.wah with cutoffMin := v }, resp := s.resp ++ [0#64] } ∧
    exec (.setCutoffMaxWah v) s =
      .next { s with wah := { s.wah with cutoffMax := v }, resp := s.resp ++ [0#64] } ∧
    exec (.setDampWah v) s = .next { s with wah := { s.wah with damp := v }, resp := s.resp ++ [0#64] } ∧
    exec (.setLfoFreqWah v) s = .next { s with wah := { s.wah with lfoFreq := v }, resp := s.resp ++ [0#64] } ∧
    exec (.setLfoFreqFlng v) s =
      .next { s with flng := { s.flng with lfoFreq := v }, resp := s.resp ++ [0#64] } ∧
    exec (.setWetGammaFlng v) s =
      .next { s with flng := { s.flng with wetGamma := v }, resp := s.resp ++ [0#64] } ∧
    exec (.setBoostDist v) s = .next { s with dist := { s.dist with boost := v }, resp := s.resp ++ [0#64] } ∧
    exec (.setWetGammaDist v) s =
      .next { s with dist := { s.dist with wetGamma := v }, resp := s.resp ++ [0#64] } ∧
    exec (.setWetGammaRvrb v) s =
      .next { s with rvrb := { s.rvrb with wetGamma := v }, resp := s.resp ++ [0#64] } ∧
    exec (.setCombModeRvrb m) s =
      .next { s with rvrb := { s.rvrb with combMode := m, dirty := true }, resp := s.resp ++ [0#64] } ∧
    exec (.setApModeRvrb m) s =
      .next { s with rvrb := { s.rvrb with apMode := m, dirty := true }, resp := s.resp ++ [0#64] }

/-- R104, R105: `SET_TAPS.SEC` writes the three coefficients at once, histories and `D` not touched; `RESET_HIST.SEC`
zero-fills both histories, each at its own length, coefficients and `D` not touched. -/
def Obligations.SecCommandsWriteCoefficientsOrClearHistories : Prop :=
  ∀ (a b c : F32) (s : State),
    exec (.setTapsSec a b c) s =
      .next { s with sec := { s.sec with ffFirst := a, ffLast := b, fbLast := c }, resp := s.resp ++ [0#64] } ∧
    exec .resetHistSec s =
      .next { s with
        sec := { s.sec with xh := List.replicate s.sec.xh.length 0#32, yh := List.replicate s.sec.yh.length 0#32 }
        resp := s.resp ++ [0#64] }

/-- R187: the five codes select their curves; every other code, lower-case letters and codes with upper bytes included,
is rejected with cause 1, `FUNC` unchanged. -/
def Obligations.SetDistFuncTakesFiveCodes : Prop :=
  ∀ (code : Word32) (s : State),
    (∀ p ∈ [(0x4C#32, Curve.l), (0x51#32, Curve.q), (0x45#32, Curve.e), (0x49#32, Curve.i), (0x53#32, Curve.s)],
      code = p.1 → exec (.setDistFuncDist code) s =
        .next { s with dist := { s.dist with func := p.2 }, resp := s.resp ++ [0#64] }) ∧
    (code ∉ [0x4C#32, 0x51#32, 0x45#32, 0x49#32, 0x53#32] →
      exec (.setDistFuncDist code) s = .next { s with resp := s.resp ++ [0x101#64] })

/-- R125, R129 to R131: the three Shelving parameter commands re-derive all five coefficients from the new parameter
and the two current ones, or reject and change nothing: cause 2 for an unknown type, before cause 3 for an invalid
cutoff; the delay registers are not touched. -/
def Obligations.ShelfCommandsCommitAllOrNothing : Prop :=
  ∀ s : State,
    (∀ t, t ≠ 0#32 → t ≠ 1#32 → exec (.setTypeShlf t) s = .next { s with resp := s.resp ++ [0x201#64] }) ∧
    (∀ t ty, (t = 0#32 ∧ ty = ShelfType.low) ∨ (t = 1#32 ∧ ty = ShelfType.high) →
      cutoffValid s.cfg s.shlf.cutoff = true →
      exec (.setTypeShlf t) s = .next { s with
        shlf := { s.shlf with
          shelfType := ty, coef := designFor s.cfg ty s.shlf.gainDb s.shlf.cutoff }
        resp := s.resp ++ [0#64] }) ∧
    (∀ g, cutoffValid s.cfg s.shlf.cutoff = true →
      exec (.setGainShlf g) s = .next { s with
        shlf := { s.shlf with gainDb := g, coef := designFor s.cfg s.shlf.shelfType g s.shlf.cutoff }
        resp := s.resp ++ [0#64] }) ∧
    (∀ c, cutoffValid s.cfg c = true →
      exec (.setCutoffShlf c) s = .next { s with
        shlf := { s.shlf with cutoff := c, coef := designFor s.cfg s.shlf.shelfType s.shlf.gainDb c }
        resp := s.resp ++ [0#64] }) ∧
    (∀ c, cutoffValid s.cfg c = false →
      exec (.setCutoffShlf c) s = .next { s with resp := s.resp ++ [0x301#64] }) ∧
    (∀ t, t = 0#32 ∨ t = 1#32 → cutoffValid s.cfg s.shlf.cutoff = false →
      exec (.setTypeShlf t) s = .next { s with resp := s.resp ++ [0x301#64] }) ∧
    (∀ g, cutoffValid s.cfg s.shlf.cutoff = false →
      exec (.setGainShlf g) s = .next { s with resp := s.resp ++ [0x301#64] })

/-- R127: in a sound state `SET_TYPE.SHLF` can fail only with cause 2, `SET_CUTOFF.SHLF` only with cause 3, and
`SET_GAIN.SHLF` never fails. -/
def Obligations.EachShelfCommandFailsWithItsOwnCauseOnly : Prop :=
  ∀ s : State, s.Inv →
    (∀ t, ∃ a, exec (.setTypeShlf t) s = .next a ∧
      (a.resp = s.resp ++ [0#64] ∨ a.resp = s.resp ++ [0x201#64])) ∧
    (∀ g, ∃ a, exec (.setGainShlf g) s = .next a ∧ a.resp = s.resp ++ [0#64]) ∧
    (∀ c, ∃ a, exec (.setCutoffShlf c) s = .next a ∧
      (a.resp = s.resp ++ [0#64] ∨ a.resp = s.resp ++ [0x301#64]))

/-- R126: in every numerics a cutoff is valid exactly when its pattern, read as a number, lies strictly between 0 and the
pattern of `FS (/) 2.0`, and that is a positive number or an infinity: so no zero, no negative, no infinity and no NaN is,
nor `FS (/) 2.0` itself. Under binary32 and for a legal sample rate `FS (/) 2.0` always is such a number. -/
def Obligations.ValidCutoffsLieBetweenZeroAndNyquist : Prop :=
  ∀ (cfg : Cfg) (c : F32),
    (cutoffValid cfg c = true ↔
      0 < c.toNat ∧ c.toNat < ((numOf cfg).div 0 cfg.fs two).toNat ∧
        ((numOf cfg).div 0 cfg.fs two).toNat ≤ 0x7F800000) ∧
    (cfg.num = .binary32 → isFinite cfg.fs = true → fgt cfg.fs posZero = true →
      (cutoffValid cfg c = true ↔ 0 < c.toNat ∧ c.toNat < (fdiv 0 cfg.fs two).toNat))

/-! ## SEC -/

/-- R101: `sec_filter`, its two reads before its two pushes, in whatever numerics. -/
def Obligations.SecFilterComputesTheEquation : Prop :=
  ∀ (N : Numerics) (k : Nat) (S : Section) (x xo yo : F32) (xs ys : List F32), S.xh = xo :: xs → S.yh = yo :: ys →
    secFilter N k S x =
      ({ S with
          xh := xs ++ [x]
          yh := ys ++ [N.add (k + 4) (N.add (k + 2) (N.mul k S.fbLast yo) (N.mul (k + 1) S.ffFirst x))
            (N.mul (k + 3) S.ffLast xo)] },
       N.add (k + 4) (N.add (k + 2) (N.mul k S.fbLast yo) (N.mul (k + 1) S.ffFirst x)) (N.mul (k + 3) S.ffLast xo))

/-- R100, R102: from zero histories the section computes
`y[n] = fb_last y[n-D] + ff_first x[n] + ff_last x[n-D]` with `x[m] = y[m] = 0` for `m < 0`: the tap spacing is `D`. -/
def Obligations.SectionSatisfiesItsDifferenceEquation : Prop :=
  ∀ (N : Numerics) (k d : Nat) (a b c : F32) (xs : List F32), 1 ≤ d →
    (fold (secFilter N) 5 k (secNew d a b c) xs).2.length = xs.length ∧
    ∀ n x y, xs[n]? = some x → (fold (secFilter N) 5 k (secNew d a b c) xs).2[n]? = some y →
      y = N.add (k + 5 * n + 4)
        (N.add (k + 5 * n + 2)
          (N.mul (k + 5 * n) c
            (if n < d then posZero else ((fold (secFilter N) 5 k (secNew d a b c) xs).2[n - d]?).getD posZero))
          (N.mul (k + 5 * n + 1) a x))
        (N.mul (k + 5 * n + 3) b (if n < d then posZero else (xs[n - d]?).getD posZero))

/-- R103, R87: `PROC.SEC n` with `n` samples supplied runs `sec_filter` over them and answers `OK(n)`; nothing but
`SEC`'s histories, the streams and the response port changes. -/
def Obligations.ProcSecRunsTheSection : Prop :=
  ∀ (n : Nat) (s : State), n ≤ s.in0.length →
    exec (.procSec n) s = .next (blockDone n false s
      { s with
        sec := (fold (secFilter (numOf s.cfg)) 5 s.draws s.sec (s.in0.take n)).1
        draws := s.draws + 5 * n }
      (fold (secFilter (numOf s.cfg)) 5 s.draws s.sec (s.in0.take n)).2)

/-- R108: a comb `(0, 1, g)` answers an impulse with echoes `1, g, g (*) g, ...` at `D, 2D, 3D, ...` and exactly `+0.0`
everywhere else, for every finite `g`, under binary32. -/
def Obligations.CombEchoesLandAtMultiplesOfD : Prop :=
  ∀ (k d m : Nat) (g : F32), 1 ≤ d → isFinite g = true →
    ∀ n ≤ m, (fold (secFilter binary32) 5 k (secNew d posZero one g) (one :: List.replicate m posZero)).2[n]? =
      some (if n ≠ 0 ∧ d ∣ n then echo g (n / d - 1) else posZero)

/-! ## SHLF -/

/-- R121: `bq_step`: the new `Z1` uses the old `Z2`, both updates use the new `y`. -/
def Obligations.BiquadStepIsTransposedDirectForm : Prop :=
  ∀ (N : Numerics) (k : Nat) (f : Shlf) (x y : F32), y = N.add (k + 1) f.z1 (N.mul k x f.coef.b0) →
    bqStep N k f x =
      ({ f with
          z1 := N.sub (k + 5) (N.add (k + 3) f.z2 (N.mul (k + 2) x f.coef.b1)) (N.mul (k + 4) y f.coef.a1)
          z2 := N.sub (k + 8) (N.mul (k + 6) x f.coef.b2) (N.mul (k + 7) y f.coef.a2) },
       y)

/-- R123, R133: at a gain of 0 dB and a valid cutoff `SHELF_DESIGN` gives `b0 = 1.0, b1 = a1, b2 = a2` with the poles
inside the unit circle, for either type (at an invalid cutoff nothing is promised: log 4); and from zero state such a
filter returns, under binary32, every input exactly (an input `-0.0` as `+0.0`) and stays in zero state, as long as no
product overflows (log 17). -/
def Obligations.UnityShelfIsTheIdentityFromZeroState : Prop :=
  (∀ (cfg : Cfg) (t : ShelfType) (g c : F32), isZero g = true → cutoffValid cfg c = true →
    (designFor cfg t g c).b0 = one ∧ (designFor cfg t g c).b1 = (designFor cfg t g c).a1 ∧
    (designFor cfg t g c).b2 = (designFor cfg t g c).a2 ∧
    polesInside (designFor cfg t g c).a1 (designFor cfg t g c).a2 = true) ∧
  (∀ (k : Nat) (f : Shlf) (x : F32), f.coef.b0 = one → f.coef.b1 = f.coef.a1 → f.coef.b2 = f.coef.a2 →
    f.z1 = posZero → f.z2 = posZero → isFinite x = true → isFinite (fmul 0 x f.coef.a1) = true →
    isFinite (fmul 0 x f.coef.a2) = true →
    (x ≠ negZero → bqStep binary32 k f x = (f, x)) ∧ (x = negZero → (bqStep binary32 k f x).2 = posZero))

/-- R128, R87: `PROC.SHLF n` with `n` samples supplied runs the recursion over them, outputs its results or, disabled,
the inputs, and answers `OK(n)`; only `Z1`, `Z2`, the streams and the response port change. -/
def Obligations.ProcShlfRunsTheBiquad : Prop :=
  ∀ (n : Nat) (s : State), n ≤ s.in0.length →
    exec (.procShlf n) s = .next (blockDone n false s
      { s with
        shlf := { s.shlf with
          z1 := (fold (bqStep (numOf s.cfg)) 9 s.draws s.shlf (s.in0.take n)).1.z1
          z2 := (fold (bqStep (numOf s.cfg)) 9 s.draws s.shlf (s.in0.take n)).1.z2 }
        draws := s.draws + 9 * n }
      (if s.shlf.en then (fold (bqStep (numOf s.cfg)) 9 s.draws s.shlf (s.in0.take n)).2 else s.in0.take n))

/-! ## WAH -/

/-- R140 to R144. The Wah LFO takes its value from the current phase, then advances, then tests strictly and resets to
`+0.0`; the coefficients are computed from the parameter registers and `env`, for every `env`; the recursion computes
the high-pass first and the low-pass from the new band-pass, which is the output. A sample takes `env` from the
side-chain, the LFO then not consulted, or from the LFO, computes the coefficients from it and the registers, runs the
recursion with them, and outputs the band-pass or, disabled, the input. -/
def Obligations.WahSampleFollowsItsFormulas : Prop :=
  ∀ (N : Numerics) (k : Nat) (fs : F32) (w : Wah) (x f q hp bp env : F32) (s : State),
    ((wahLfoNext N k fs w).2 = N.add (k + 2) half (N.mul (k + 1) half (N.sin (N.mul k w.phase w.lfoFreq))) ∧
     (wahLfoNext N k fs w).1 = { w with
       phase :=
         if N.lt (N.div (k + 5) twoPi32 w.lfoFreq) (N.add (k + 4) w.phase (N.div (k + 3) twoPi32 fs)) then 0#32
         else N.add (k + 4) w.phase (N.div (k + 3) twoPi32 fs) }) ∧
    (wahCutoff N k w env = N.add (k + 2) w.cutoffMin (N.mul (k + 1) (N.sub k w.cutoffMax w.cutoffMin) env) ∧
     wahCoeffs N k fs w env =
       (N.mul (k + 5) two (N.sin (N.div (k + 4) (N.mul (k + 3) pi32 (wahCutoff N k w env)) fs)),
        N.div (k + 6) w.damp sqrt2_32)) ∧
    (hp = N.sub (k + 2) (N.sub k x w.yLp) (N.mul (k + 1) q w.yBp) → bp = N.add (k + 4) (N.mul (k + 3) f hp) w.yBp →
     svfStep N k w x f q =
       ({ w with yHp := hp, yBp := bp, yLp := N.add (k + 6) (N.mul (k + 5) f bp) w.yLp }, bp)) ∧
    wahFilter N k fs (some env) w x =
      svfStep N (k + 13) w x (wahCoeffs N (k + 6) fs w env).1 (wahCoeffs N (k + 6) fs w env).2 ∧
    wahFilter N k fs none w x =
      svfStep N (k + 13) (wahLfoNext N k fs w).1 x
        (wahCoeffs N (k + 6) fs (wahLfoNext N k fs w).1 (wahLfoNext N k fs w).2).1
        (wahCoeffs N (k + 6) fs (wahLfoNext N k fs w).1 (wahLfoNext N k fs w).2).2 ∧
    (∀ e : Option F32, wahSample e x s =
      ({ s with wah := (wahFilter (numOf s.cfg) s.draws s.cfg.fs e s.wah x).1, draws := s.draws + 20 },
       if s.wah.en then (wahFilter (numOf s.cfg) s.draws s.cfg.fs e s.wah x).2 else x))

/-- R145, R144, R140 to R143, R87: `PROC.WAH n` with the samples it needs runs envelope, coefficients and recursion, as
`Claims.wahOne` spells them out, over them, outputs the band-pass or, disabled, the inputs, and answers `OK(n)`; with
`SC = 1` each sample takes its envelope from `in1` and the LFO phase does not change, with `SC = 0` `in1` is not
touched. -/
def Obligations.ProcWahRunsTheStateVariableFilter : Prop :=
  ∀ (n : Nat) (sc : Bool) (s : State), n ≤ available sc s →
    exec (.procWah n sc) s = .next (blockDone n sc s
      { s with
        wah := (fold (wahOne (numOf s.cfg) s.cfg.fs) 20 s.draws s.wah (samples sc n s)).1
        draws := s.draws + 20 * n }
      (if s.wah.en then (fold (wahOne (numOf s.cfg) s.cfg.fs) 20 s.draws s.wah (samples sc n s)).2
       else s.in0.take n)) ∧
    (sc = true →
      (fold (wahOne (numOf s.cfg) s.cfg.fs) 20 s.draws s.wah (samples sc n s)).1.phase = s.wah.phase)

/-- R145, under binary32: at `LFO_FREQ = +0.0` the phase, while finite, never resets and the envelope stays `0.5`; at
a negative finite `LFO_FREQ` the phase, whatever finite value that is not negative it has, is `+0.0` after the sample,
and from there on the envelope stays `0.5`. -/
def Obligations.WahEnvelopeStandsStillAtZeroOrNegativeRate : Prop :=
  ∀ (k : Nat) (fs : F32) (w : Wah), isFinite fs = true → fgt fs posZero = true →
    (w.lfoFreq = posZero → isFinite w.phase = true →
      (wahLfoNext binary32 k fs w).2 = half ∧
      (wahLfoNext binary32 k fs w).1.phase = fadd (k + 4) w.phase (fdiv (k + 3) twoPi32 fs)) ∧
    (isFinite w.lfoFreq = true → flt w.lfoFreq posZero = true → isFinite w.phase = true → fge w.phase posZero = true →
      (wahLfoNext binary32 k fs w).1.phase = posZero ∧
      (w.phase = posZero → (wahLfoNext binary32 k fs w).2 = half))

/-- R141, R146, R151: under binary32, with the envelope pinned to `+0.0` the cutoff is `CUTOFF_MIN` exactly, and
`F = 2 (*) sin32((PI32 (*) CUTOFF_MIN) (/) FS)`, `Q = DAMP (/) SQRT2_32`, for a finite span. -/
def Obligations.PinnedEnvelopeKeepsTheMinimumCutoff : Prop :=
  ∀ (k : Nat) (fs : F32) (w : Wah), isFinite (fsub 0 w.cutoffMax w.cutoffMin) = true → w.cutoffMin ≠ negZero →
    wahCutoff binary32 k w posZero = w.cutoffMin ∧
    wahCoeffs binary32 k fs w posZero =
      (fmul (k + 5) two (sin32 .binary32 (fdiv (k + 4) (fmul (k + 3) pi32 w.cutoffMin) fs)),
       fdiv (k + 6) w.damp sqrt2_32)

/-! ## FLNG -/

/-- R163: under binary32 and for a finite LFO angle the tap index is inside the buffer, whatever `cos32` is within its
named properties. -/
def Obligations.FlangerIndexIsInsideTheBuffer : Prop :=
  ∀ (k j : Nat) (f : Flng), 1 ≤ f.cap → f.cap < 2 ^ 24 →
    isFinite (lfoAngle binary32 k f.phase f.lfoFreq) = true →
    ∃ i : Nat, flngIndex binary32 j f.cap (flngLfoValue binary32 k f) = some (i : Int) ∧ i < f.cap

/-- R164, R161, R162: one Flanger sample at a finite `LFO_FREQ`: LFO value and phase, index, the read before the push
of the dry sample, and the mix. -/
def Obligations.FlangerReadsMixesThenPushesTheDrySample : Prop :=
  ∀ (k : Nat) (cfg : Cfg) (N : Numerics) (f : Flng) (x v wet : F32) (i : Nat), N = numOf cfg →
    isFinite f.lfoFreq = true →
    v = N.sub (k + 2) half (N.mul (k + 1) half (N.cos (N.mul k f.phase f.lfoFreq))) →
    roundI (N.mul (k + 6) v (i2f (f.cap - 1))) = some (i : Int) →
    (f.buf[match cfg.tapOrigin with | .oldest => i | .newest => f.buf.length - 1 - i]? = some wet) →
    i < f.buf.length →
    flngFilter k cfg f x = .ok
      ({ f with
          phase :=
            if N.lt (N.div (k + 5) twoPi32 f.lfoFreq) (N.add (k + 4) f.phase (N.div (k + 3) twoPi32 cfg.fs)) then 0#32
            else N.add (k + 4) f.phase (N.div (k + 3) twoPi32 cfg.fs)
          buf := f.buf.drop 1 ++ [x] },
       N.add (k + 10) (N.mul (k + 7) wet f.wetGamma) (N.mul (k + 9) x (N.sub (k + 8) one f.wetGamma)))

/-- R165, R87: under binary32, `PROC.FLNG n` with `n` samples supplied, in a sound state whose LFO angle stays finite,
completes: the delay line then holds the last `CAP` of its old entries and the inputs, the outputs are the per-sample
results or, disabled, the inputs, and `OK(n)` is answered; only `BUF`, `PHASE`, the streams and the response port
change. -/
def Obligations.ProcFlngRunsTheDelayLine : Prop :=
  ∀ (n : Nat) (s : State), s.cfg.num = .binary32 → s.Inv → n ≤ s.in0.length → flngAngleFinite s n →
    ∃ (f : Flng) (ys : List F32),
      foldE (fun k f x => flngFilter k s.cfg f x) 11 s.draws s.flng (s.in0.take n) = .ok (f, ys) ∧
      f.buf = (s.flng.buf ++ s.in0.take n).drop n ∧
      f = { s.flng with buf := f.buf, phase := f.phase } ∧
      exec (.procFlng n) s = .next (blockDone n false s { s with flng := f, draws := s.draws + 11 * n }
        (if s.flng.en then ys else s.in0.take n))

/-- R165, R164: under binary32, at `LFO_FREQ = +0.0` the enabled Flanger is a fixed delay of `CAP` samples (`OLDEST`),
of one sample (`NEWEST`), mixed with the dry signal. -/
def Obligations.FlangerAtRestIsAFixedDelay : Prop :=
  ∀ (n : Nat) (s : State), s.cfg.num = .binary32 → s.Inv → n ≤ s.in0.length → flngAngleFinite s n →
    s.flng.lfoFreq = posZero → s.flng.en = true →
    ∃ (t : State) (ys : List F32), exec (.procFlng n) s = .next t ∧ t.out = s.out ++ ys ∧ ys.length = n ∧
      ∀ i wet x, i < n →
        (s.flng.buf ++ s.in0)[match s.cfg.tapOrigin with | .oldest => i | .newest => i + s.flng.cap - 1]? = some wet →
        s.in0[i]? = some x → ys[i]? = some (mix binary32 (s.draws + 11 * i + 7) wet x s.flng.wetGamma)

/-- R169: under binary32, with `WET_GAMMA = +0.0` the output equals the dry input exactly, whatever the LFO, for
finite entries of the delay line (an input `-0.0` as a zero). -/
def Obligations.FlangerIsDryAtZeroGamma : Prop :=
  ∀ (k : Nat) (cfg : Cfg) (f g : Flng) (x y : F32), cfg.num = .binary32 →
    flngFilter k cfg f x = .ok (g, y) → f.wetGamma = posZero → (∀ b ∈ f.buf, isFinite b = true) → isNaN x = false →
    (x ≠ negZero → y = x) ∧ (x = negZero → isZero y = true)

/-- R166, R163, R16: a NaN or infinite `LFO_FREQ` faults the next sample of `PROC.FLNG`, whatever the numerics and the
phase; a NaN, under binary32, with `F_ROUND`. Which of the two faults an infinite one raises depends on `cos32`
(log 17). -/
def Obligations.NonFiniteLfoFrequencyFaultsTheNextFlangerSample : Prop :=
  (∀ (k : Nat) (cfg : Cfg) (f : Flng) (x : F32), isFinite f.lfoFreq = false →
    flngFilter k cfg f x = .error .round ∨ flngFilter k cfg f x = .error .tapIndex) ∧
  (∀ (n : Nat) (s : State), 1 ≤ n → s.in0 ≠ [] → isFinite s.flng.lfoFreq = false →
    (exec (.procFlng n) s = .fault .fRound ∨ exec (.procFlng n) s = .fault .fTapIndex) ∧
    (s.cfg.num = .binary32 → isNaN s.flng.lfoFreq = true → exec (.procFlng n) s = .fault .fRound))

/-! ## DIST -/

/-- R180, R181, R182: the five codes, the formulas of their curves and, under binary32, their value `+0.0` at `m =
+0.0`; the sign; the shaped sample, in whatever numerics; and under binary32, from `|x| (*) BOOST >= 1.0` on, exactly
`1.0` with the sign of the input, whatever the curve. -/
def Obligations.WaveshaperAppliesClipsAndSaturates : Prop :=
  (curveOf 0x4C#32 = some .l ∧ curveOf 0x51#32 = some .q ∧ curveOf 0x45#32 = some .e ∧ curveOf 0x49#32 = some .i ∧
    curveOf 0x53#32 = some .s) ∧
  (∀ (N : Numerics) (k : Nat) (d : Dist) (m x : F32),
    (curve N k .l m = m ∧
     curve N k .q m = N.sub (k + 3) one (N.mul (k + 2) (N.sub k one m) (N.sub (k + 1) one m)) ∧
     curve N k .e m = N.div (k + 1) (N.sub k one (N.exp (m ^^^ 0x80000000#32))) 0x3F1B4598#32 ∧
     curve N k .i m = N.div (k + 2) (N.mul k two m) (N.add (k + 1) one m) ∧
     curve N k .s m = N.sin (N.mul k 0x3FC90FDB#32 m)) ∧
    signOf N x = (if N.lt x posZero then minusOne else one) ∧
    (N.le one (N.mul k (fabs x) d.boost) = true → shape N k d x = N.mul (k + 5) (signOf N x) one) ∧
    (N.le one (N.mul k (fabs x) d.boost) = false →
      shape N k d x = N.mul (k + 5) (signOf N x)
        (if N.lt one (curve N (k + 1) d.func (N.mul k (fabs x) d.boost)) then one
         else curve N (k + 1) d.func (N.mul k (fabs x) d.boost)))) ∧
  (∀ (k : Nat) (c : Curve), curve binary32 k c posZero = posZero) ∧
  (∀ (n : NumId) (x : F32), isZero x = true ∨ isNaN x = true → signOf (numericsOf n) x = one) ∧
  (∀ (k : Nat) (d : Dist) (x : F32), fge (fmul 0 (fabs x) d.boost) one = true →
    shape binary32 k d x = if flt x posZero then minusOne else one)

/-- R184: under binary32, for every curve, every boost that is not negative and every input, the shaped sample lies in
`[-1, 1]`, provided `|x| (*) BOOST` is a number (R186 and log 17: an infinity times zero is not). -/
def Obligations.ShapedSampleIsBoundedByOne : Prop :=
  ∀ (k : Nat) (d : Dist) (x : F32), isNaN (fmul 0 (fabs x) d.boost) = false → fge d.boost posZero = true →
    fle minusOne (shape binary32 k d x) = true ∧ fle (shape binary32 k d x) one = true

/-- R185: under binary32, curve `L` at `BOOST = 1.0` returns every input of magnitude below 1 (an input `-0.0` as
`+0.0`). -/
def Obligations.LCurveIsTheIdentityBelowOne : Prop :=
  ∀ (k : Nat) (d : Dist) (x : F32), d.func = .l → d.boost = one → flt (fabs x) one = true →
    (x ≠ negZero → shape binary32 k d x = x) ∧ (x = negZero → shape binary32 k d x = posZero)

/-- R186, R183, R161, R87: `PROC.DIST n` with `n` samples supplied outputs the mix of the shaped sample and the input,
or, disabled, the input bit for bit; no register changes. -/
def Obligations.ProcDistShapesEachSample : Prop :=
  ∀ (n : Nat) (s : State) (N : Numerics), N = numOf s.cfg → n ≤ s.in0.length →
    exec (.procDist n) s = .next (if s.dist.en then
      blockDone n false s { s with draws := s.draws + 10 * n }
        (fold (fun k (_ : Unit) x =>
          ((), N.add (k + 9) (N.mul (k + 6) (shape N k s.dist x) s.dist.wetGamma)
            (N.mul (k + 8) x (N.sub (k + 7) one s.dist.wetGamma)))) 10 s.draws () (s.in0.take n)).2
      else blockDone n false s s (s.in0.take n))

/-! ## RVRB -/

/-- R205, R201, R204, R206: a rebuild replaces all seven sections by fresh ones with zero histories, made from the
presets or from values drawn in the closed intervals, clears `DIRTY` and touches nothing else. -/
def Obligations.RebuildMakesSevenFreshSections : Prop :=
  ∀ s t : State, rvrbRebuild s = .ok t →
    t = { s with rvrb := { s.rvrb with bank := t.rvrb.bank, dirty := false }, draws := t.draws } ∧
    (∀ q ∈ [(t.rvrb.bank.comb0, s.cfg.presetComb0), (t.rvrb.bank.comb1, s.cfg.presetComb1),
        (t.rvrb.bank.comb2, s.cfg.presetComb2), (t.rvrb.bank.comb3, s.cfg.presetComb3)],
      ∃ (p : GainDelay) (d : Nat),
        (s.rvrb.combMode = .preset → p = q.2) ∧
        (s.rvrb.combMode = .random → within c0_6 c0_9 p.gain = true ∧ within c0_015 c0_030 p.delay = true) ∧
        roundI ((numOf s.cfg).mul 0 p.delay s.cfg.fs) = some (d : Int) ∧ 1 ≤ d ∧ d ≤ s.cfg.dmax ∧
        q.1 = { d := d, ffFirst := posZero, ffLast := one, fbLast := fneg p.gain,
                xh := List.replicate d posZero, yh := List.replicate d posZero }) ∧
    (∀ q ∈ [(t.rvrb.bank.ap0, s.cfg.presetAp0), (t.rvrb.bank.ap1, s.cfg.presetAp1),
        (t.rvrb.bank.ap2, s.cfg.presetAp2)],
      ∃ (p : GainDelay) (d : Nat),
        (s.rvrb.apMode = .preset → p = q.2) ∧
        (s.rvrb.apMode = .random → p.gain = c0_7 ∧ within c0_0001 c0_0101 p.delay = true) ∧
        roundI ((numOf s.cfg).mul 0 p.delay s.cfg.fs) = some (d : Int) ∧ 1 ≤ d ∧ d ≤ s.cfg.dmax ∧
        q.1 = { d := d, ffFirst := p.gain, ffLast := one, fbLast := p.gain,
                xh := List.replicate d posZero, yh := List.replicate d posZero })

/-- R206: with a well-formed configuration, and for the random mode (under binary32) the further condition of the
rule, a rebuild never faults, whatever is drawn. -/
def Obligations.RebuildSucceedsWhateverIsDrawn : Prop :=
  ∀ s : State, cfgSizesOk s.cfg = true → rebuildSafe s → ∃ t, rvrbRebuild s = .ok t

/-- R212: one sample of the filter bank: the combs fed the same dry input, summed in index order from `+0.0`, then the
allpasses in series. -/
def Obligations.BankSumsCombsThenChainsAllpasses : Prop :=
  ∀ (N : Numerics) (k : Nat) (b : Bank) (x v : F32),
    v = N.add (k + 23) (N.add (k + 17) (N.add (k + 11) (N.add (k + 5) 0#32 (secFilter N k b.comb0 x).2)
      (secFilter N (k + 6) b.comb1 x).2) (secFilter N (k + 12) b.comb2 x).2) (secFilter N (k + 18) b.comb3 x).2 →
    bankStep N k b x =
      (⟨(secFilter N k b.comb0 x).1, (secFilter N (k + 6) b.comb1 x).1, (secFilter N (k + 12) b.comb2 x).1,
        (secFilter N (k + 18) b.comb3 x).1, (secFilter N (k + 24) b.ap0 v).1,
        (secFilter N (k + 29) b.ap1 (secFilter N (k + 24) b.ap0 v).2).1,
        (secFilter N (k + 34) b.ap2 (secFilter N (k + 29) b.ap1 (secFilter N (k + 24) b.ap0 v).2).2).1⟩,
       (secFilter N (k + 34) b.ap2 (secFilter N (k + 29) b.ap1 (secFilter N (k + 24) b.ap0 v).2).2).2)

/-- R207, R212, R87: `PROC.RVRB n` first performs a pending rebuild, also for `n = 0`, then runs the bank over the
samples, mixes and answers `OK(n)`, or outputs the inputs when disabled. In a sound state with a safe rebuild it
completes. -/
def Obligations.ProcRvrbRebuildsThenRunsTheBank : Prop :=
  (∀ (n : Nat) (s a : State) (N : Numerics), N = numOf s.cfg → n ≤ s.in0.length →
    ((s.rvrb.dirty = true ∧ rvrbRebuild s = .ok a) ∨ (s.rvrb.dirty = false ∧ a = s)) →
    exec (.procRvrb n) s = .next (blockDone n false s
      { a with
        rvrb := { a.rvrb with
          bank := (fold (fun k b x =>
            ((bankStep N k b x).1, mix N (k + 39) (bankStep N k b x).2 x a.rvrb.wetGamma)) 43
            a.draws a.rvrb.bank (s.in0.take n)).1 }
        draws := a.draws + 43 * n }
      (if a.rvrb.en then
        (fold (fun k b x => ((bankStep N k b x).1, mix N (k + 39) (bankStep N k b x).2 x a.rvrb.wetGamma)) 43
          a.draws a.rvrb.bank (s.in0.take n)).2
       else s.in0.take n))) ∧
  (∀ (n : Nat) (s : State), s.Inv → (s.rvrb.dirty = true → rebuildSafe s) → n ≤ s.in0.length →
    ∃ t, exec (.procRvrb n) s = .next t ∧ t.busy = none ∧ t.rvrb.dirty = false ∧
      t.resp = s.resp ++ [BitVec.ofNat 32 n ++ 0#32])

/-- R214: under binary32, a rebuild silences the tail: for as many samples as the shortest comb is long, the wet value
is a zero, for finite inputs and gains. -/
def Obligations.RebuildSilencesTheTail : Prop :=
  ∀ (s t : State) (xs : List F32), s.cfg.num = .binary32 → rvrbRebuild s = .ok t →
    (∀ x ∈ xs, isFinite x = true) →
    (∀ S ∈ [t.rvrb.bank.comb0, t.rvrb.bank.comb1, t.rvrb.bank.comb2, t.rvrb.bank.comb3],
      xs.length ≤ S.d ∧ isFinite S.fbLast = true) →
    (∀ S ∈ [t.rvrb.bank.ap0, t.rvrb.bank.ap1, t.rvrb.bank.ap2], isFinite S.fbLast = true) →
    ∀ y ∈ (fold (bankStep binary32) 43 t.draws t.rvrb.bank xs).2, isZero y = true
end

