-- ==== Sys2Proof/Laws/Decode.lean ====
section
/-! SUPPORT. The fields of a command word (spec/30_encoding.md R80): each field of a packed word is what was packed, a
word is the pack of its fields, the operand kinds with reserved bits (R82) read back what was written, and so do the bytes of a transport
(spec/20_memory.md R69). -/

namespace Sys2Proof

section fields
variable (opc unit : BitVec 8) (rsv : BitVec 16) (c b a : Word32)

theorem opcField_pack : opcField (pack opc unit rsv c b a) = opc := by
  unfold opcField pack; ext i hi; simp; grind

theorem unitField_pack : unitField (pack opc unit rsv c b a) = unit := by
  unfold unitField pack; ext i hi; simp; grind

theorem rsvField_pack : rsvField (pack opc unit rsv c b a) = rsv := by
  unfold rsvField pack; ext i hi; simp; grind

theorem cField_pack : cField (pack opc unit rsv c b a) = c := by
  unfold cField pack; ext i hi; simp; grind

theorem bField_pack : bField (pack opc unit rsv c b a) = b := by
  unfold bField pack; ext i hi; simp; grind

theorem aField_pack : aField (pack opc unit rsv c b a) = a := by
  unfold aField pack; ext i hi; simp; grind

end fields

/-- Every word is the pack of its fields. -/
theorem pack_fields (w : CommandWord) :
    pack (opcField w) (unitField w) (rsvField w) (cField w) (bField w) (aField w) = w := by
  unfold pack opcField unitField rsvField cField bField aField
  ext i hi
  simp
  grind

/-! ## Operand kinds -/

theorem bitZero_ofBool (b : Bool) : bitZero (ofBool b) = b := by cases b <;> rfl

theorem upperBitsZero_ofBool (b : Bool) : upperBitsZero (ofBool b) = true := by cases b <;> rfl

theorem modeOf_ofMode (m : Mode) : modeOf (ofMode m) = m := by cases m <;> rfl

theorem upperBitsZero_ofMode (m : Mode) : upperBitsZero (ofMode m) = true := by cases m <;> rfl

/-- An operand whose reserved bits are zero is 0 or 1. -/
theorem ofBool_bitZero {v : Word32} (h : upperBitsZero v = true) : ofBool (bitZero v) = v := by
  have h2 : v.toNat / 2 % 2 ^ 31 = 0 := by
    have := congrArg BitVec.toNat (beq_iff_eq.1 h)
    simpa [BitVec.extractLsb'_toNat, Nat.shiftRight_eq_div_pow] using this
  have hlt := v.isLt
  have h01 : v.toNat = 0 ∨ v.toNat = 1 := by omega
  rcases h01 with h0 | h0
  · rw [show v = 0#32 from BitVec.eq_of_toNat_eq h0]; rfl
  · rw [show v = 1#32 from BitVec.eq_of_toNat_eq h0]; rfl

theorem ofMode_modeOf {v : Word32} (h : upperBitsZero v = true) : ofMode (modeOf v) = v := by
  have e := ofBool_bitZero h
  unfold modeOf
  cases hb : bitZero v <;> rw [hb] at e <;> exact e

/-! ## Words as bytes (R69, R70) -/

theorem bytesOf_length (n : Nat) (w : BitVec (8 * n)) : (bytesOf n w).length = n := by simp [bytesOf]

/-- Little-endian bytes spell the number whose digits to base 256 they are. -/
theorem natOfBytes_digits (n m : Nat) :
    natOfBytes ((List.range n).map fun i => BitVec.ofNat 8 (m / 2 ^ (8 * i))) = m % 2 ^ (8 * n) := by
  induction n generalizing m with
  | zero => simp [natOfBytes, Nat.mod_one]
  | succ n ih =>
    have h : ∀ i, m / 2 ^ (8 * (i + 1)) = m / 256 / 2 ^ (8 * i) := fun i => by
      rw [Nat.div_div_eq_div_mul, show 8 * (i + 1) = 8 + 8 * i by ring, pow_add, show 2 ^ 8 = 256 from rfl]
    rw [List.range_succ_eq_map, List.map_cons, List.map_map, natOfBytes]
    simp only [Function.comp_def, Nat.succ_eq_add_one, h, ih (m / 256), BitVec.toNat_ofNat, Nat.mul_zero, Nat.pow_zero,
      Nat.div_one]
    rw [show 8 * (n + 1) = 8 + 8 * n by ring, pow_add, Nat.mod_mul, show 2 ^ 8 = 256 from rfl]

/-- What a transport sends of a word is read back as that word. -/
theorem ofBytes_bytesOf (n : Nat) (w : BitVec (8 * n)) : ofBytes n (bytesOf n w) = some w := by
  have h : bytesOf n w = (List.range n).map fun i => BitVec.ofNat 8 (w.toNat / 2 ^ (8 * i)) := by
    refine List.map_congr_left fun i _ => ?_
    rw [BitVec.extractLsb', Nat.shiftRight_eq_div_pow]
  rw [ofBytes, if_pos (bytesOf_length n w), h, natOfBytes_digits, ← BitVec.toNat_ofNat]
  simp

theorem ofBytes_eq_none {n : Nat} {bs : List Byte} (h : bs.length ≠ n) : ofBytes n bs = none := if_neg h

theorem wordOfBytes_bytesOfWord (w : CommandWord) : wordOfBytes (bytesOfWord w) = some w := ofBytes_bytesOf 16 w
theorem sampleOfBytes_bytesOfSample (v : F32) : sampleOfBytes (bytesOfSample v) = some v := ofBytes_bytesOf 4 v
theorem responseOfBytes_bytesOfResponse (r : ResponseWord) : responseOfBytes (bytesOfResponse r) = some r :=
  ofBytes_bytesOf 8 r

end Sys2Proof
end

