-- ==== Sys2Proof/Laws/Float.lean ====
section
/-! SUPPORT. The laws of the arithmetic of Machine/Float.lean and Machine/Num.lean: what the parts of a packed pattern
are, that rounding is exact on representable values and monotone, that a free value's index only ever shows in a NaN,
what `NUM` is under a configuration that names
binary32, and the named properties of the elementary functions and of the random source. -/

namespace Sys2Proof.Machine

/-! ## Patterns -/

theorem isNaN_iff {a : F32} : isNaN a = true ↔ 0x7F800000 < fmag a := decide_eq_true_iff
theorem isFinite_iff {a : F32} : isFinite a = true ↔ fmag a < 0x7F800000 := decide_eq_true_iff
theorem isZero_iff {a : F32} : isZero a = true ↔ fmag a = 0 := beq_iff_eq

theorem fmag_lt (a : F32) : fmag a < 2 ^ 31 := Nat.mod_lt _ (by decide)

theorem packF_toNat (s : Bool) {m : Nat} (h : m < 2 ^ 31) :
    (packF s m).toNat = (if s then 2 ^ 31 else 0) + m := by
  have : (if s then 2 ^ 31 else 0) + m < 2 ^ 32 := by cases s <;> simp <;> omega
  rw [packF, BitVec.toNat_ofNat, Nat.mod_eq_of_lt this]

theorem fmag_packF (s : Bool) {m : Nat} (h : m < 2 ^ 31) : fmag (packF s m) = m := by
  rw [fmag, packF_toNat s h]
  cases s <;> simp <;> omega

theorem fsign_packF (s : Bool) {m : Nat} (h : m < 2 ^ 31) : fsign (packF s m) = s := by
  rw [fsign, packF_toNat s h]
  cases s
  · simp only [Bool.false_eq_true, if_false, Nat.zero_add, Nat.div_eq_of_lt h]; rfl
  · have : (2 ^ 31 + m) / 2 ^ 31 = 1 := by omega
    simp only [if_true, this]; rfl

/-- A pattern is its sign and its magnitude bits. -/
theorem packF_fsign_fmag (a : F32) : packF (fsign a) (fmag a) = a := by
  apply BitVec.eq_of_toNat_eq
  rw [packF_toNat _ (fmag_lt a)]
  have h := a.isLt
  have h2 : a.toNat / 2 ^ 31 = 0 ∨ a.toNat / 2 ^ 31 = 1 := by omega
  have h3 := Nat.div_add_mod a.toNat (2 ^ 31)
  rcases h2 with h2 | h2 <;> simp only [fsign, fmag, h2] at * <;> simp <;> omega

theorem fmag_fneg (a : F32) : fmag (fneg a) = fmag a := by
  simp only [fmag, fneg, BitVec.toNat_xor, Nat.xor_mod_two_pow]
  exact Nat.xor_zero _

theorem isNaN_fneg (a : F32) : isNaN (fneg a) = isNaN a := by simp [isNaN, fmag_fneg]

theorem isNaN_or_quiet (v : F32) : isNaN (v ||| 0x7FC00000#32) = true := by
  rw [isNaN_iff, fmag, BitVec.toNat_or, Nat.or_mod_two_pow]
  exact lt_of_lt_of_le (b := 0x7FC00000) (by decide) (Nat.right_le_or (m := 0x7FC00000) (n := v.toNat % 2 ^ 31))

theorem isNaN_quietNaN (k : Nat) : isNaN (quietNaN k) = true := isNaN_or_quiet _

theorem isNaN_asNaN (v : F32) : isNaN (asNaN v) = true := by
  unfold asNaN
  split
  · assumption
  · exact isNaN_or_quiet v

/-! ## Rounding -/

theorem roundMag_le_infMag (n d : Nat) : roundMag n d ≤ infMag := Nat.min_le_left _ _

theorem roundMag_lt (n d : Nat) : roundMag n d < 2 ^ 31 := lt_of_le_of_lt (roundMag_le_infMag n d) (by decide)

theorem roundEven_mul (q : Nat) {d : Nat} (h : 0 < d) : roundEven (q * d) d = q := by
  simp [roundEven, Nat.mul_div_cancel q h, h]

theorem roundEven_le_succ (n d : Nat) : roundEven n d ≤ n / d + 1 := by
  simp only [roundEven]
  split
  · omega
  · split <;> omega

theorem le_roundEven (n d : Nat) : n / d ≤ roundEven n d := by
  simp only [roundEven]
  split
  · omega
  · split <;> omega

theorem roundEven_mono {n n' : Nat} (d : Nat) (h : n ≤ n') : roundEven n d ≤ roundEven n' d := by
  rcases (Nat.div_le_div_right h : n / d ≤ n' / d).lt_or_eq with hq | hq
  · exact (roundEven_le_succ n d).trans (hq.trans_le (le_roundEven n' d))
  · have h1 := Nat.div_add_mod n d
    have h2 := Nat.div_add_mod n' d
    rw [hq] at h1
    simp only [roundEven, hq]
    repeat' split
    all_goals omega

/-- Rounding is exact on representable magnitudes. -/
theorem roundMag_scaledMag {m d : Nat} (hm : m ≤ infMag) (hd : 0 < d) : roundMag (scaledMag m * d) d = m := by
  have key : dropped (scaledMag m * d) d * 2 ^ 23
      + roundEven (scaledMag m * d) (d * 2 ^ dropped (scaledMag m * d) d) = m := by
    rw [dropped, Nat.mul_div_cancel _ hd, scaledMag]
    split
    · rename_i h0
      have hlt : m < 2 ^ 23 := by omega
      have : Nat.log2 m - 23 = 0 := by
        rcases Nat.eq_zero_or_pos m with rfl | hp
        · rfl
        · have := (Nat.log2_lt (by omega)).2 hlt
          omega
      rw [this]
      simpa using roundEven_mul m hd
    · rename_i h0
      obtain ⟨e, he⟩ : ∃ e, m / 2 ^ 23 = e + 1 := ⟨m / 2 ^ 23 - 1, by omega⟩
      have hf : m % 2 ^ 23 < 2 ^ 23 := Nat.mod_lt _ (by decide)
      have hlog : Nat.log2 ((2 ^ 23 + m % 2 ^ 23) * 2 ^ e) = 23 + e := by
        rw [Nat.log2_eq_iff (by positivity)]
        constructor
        · rw [pow_add]; exact Nat.mul_le_mul_right _ (by omega)
        · have : 23 + e + 1 = 24 + e := by omega
          rw [this, pow_add]
          exact Nat.mul_lt_mul_of_pos_right (by omega) (by positivity)
      rw [he, Nat.add_sub_cancel, hlog, show 23 + e - 23 = e by omega,
        show (2 ^ 23 + m % 2 ^ 23) * 2 ^ e * d = (2 ^ 23 + m % 2 ^ 23) * (d * 2 ^ e) by ring,
        roundEven_mul _ (by positivity)]
      omega
  rw [roundMag, key, Nat.min_eq_right hm]

/-- Rounding is monotone. -/
theorem roundMag_mono {n n' : Nat} (d : Nat) (h : n ≤ n') : roundMag n d ≤ roundMag n' d := by
  have hq : n / d ≤ n' / d := Nat.div_le_div_right h
  have he : dropped n d ≤ dropped n' d := by
    have : Nat.log2 (n / d) ≤ Nat.log2 (n' / d) := by
      rw [Nat.log2_eq_log_two, Nat.log2_eq_log_two]
      exact Nat.log_mono_right hq
    simp only [dropped]
    omega
  refine min_le_min le_rfl ?_
  rcases he.lt_or_eq with hlt | heq
  · have up : roundEven n (d * 2 ^ dropped n d) ≤ 2 ^ 24 := by
      have : n / d / 2 ^ dropped n d < 2 ^ 24 := by
        rw [Nat.div_lt_iff_lt_mul (by positivity), ← pow_add]
        by_cases h0 : n / d = 0
        · rw [h0]; positivity
        · rw [← Nat.log2_lt h0]
          simp only [dropped]
          omega
      rw [Nat.div_div_eq_div_mul] at this
      exact (roundEven_le_succ _ _).trans this
    have low : 2 ^ 23 ≤ roundEven n' (d * 2 ^ dropped n' d) := by
      refine le_trans ?_ (le_roundEven _ _)
      rw [← Nat.div_div_eq_div_mul, Nat.le_div_iff_mul_le (by positivity), ← pow_add]
      have h0 : n' / d ≠ 0 := by
        intro h0
        simp [dropped, h0] at hlt
      have hd' : dropped n' d = Nat.log2 (n' / d) - 23 := rfl
      rw [show 23 + dropped n' d = Nat.log2 (n' / d) by omega]
      exact Nat.log2_self_le h0
    have : (dropped n d + 1) * 2 ^ 23 ≤ dropped n' d * 2 ^ 23 := Nat.mul_le_mul_right _ hlt
    omega
  · rw [heq]
    exact Nat.add_le_add_left (roundEven_mono _ h) _

/-! ## Units of the operations -/

theorem isZero_or_finite_or_inf {a : F32} (h : isNaN a = false) : isFinite a = true ∨ isInf a = true := by
  have h1 : ¬ 0x7F800000 < fmag a := fun h' => by simp [isNaN_iff.2 h'] at h
  rcases Nat.lt_or_ge (fmag a) 0x7F800000 with h2 | h2
  · exact .inl (isFinite_iff.2 h2)
  · exact .inr (beq_iff_eq.2 (show fmag a = 0x7F800000 by omega))

theorem scaledMag_eq_zero {m : Nat} : scaledMag m = 0 ↔ m = 0 := by
  unfold scaledMag
  split
  · rfl
  · rename_i h
    have : (2 ^ 23 + m % 2 ^ 23) * 2 ^ (m / 2 ^ 23 - 1) ≠ 0 := by positivity
    exact ⟨fun h' => absurd h' this, fun h' => absurd (by simp [h']) h⟩

theorem scaledMag_one : scaledMag (fmag one) = 2 ^ 149 := by decide +kernel

theorem fmul_comm (k : Nat) (a b : F32) : fmul k a b = fmul k b a := by
  have hs : (fsign a != fsign b) = (fsign b != fsign a) := by cases fsign a <;> cases fsign b <;> rfl
  simp only [fmul, hs, Nat.mul_comm (scaledMag (fmag a)), Bool.or_comm (isNaN a), Bool.or_comm (isInf a),
    Bool.or_comm (isZero a)]

theorem one_fmul (k : Nat) {a : F32} (h : isNaN a = false) : fmul k one a = a := by
  have h1 : isNaN one = false ∧ isInf one = false ∧ isZero one = false ∧ fsign one = false := by decide
  unfold fmul
  rw [h1.1, h1.2.1, h1.2.2.1, h1.2.2.2, h, scaledMag_one]
  rcases isZero_or_finite_or_inf h with hf | hi
  · have hlt := isFinite_iff.1 hf
    have hi : isInf a = false := by
      rw [← Bool.not_eq_true]; exact fun h' => absurd (beq_iff_eq.1 h') (by simp only [infMag]; omega)
    have := roundMag_scaledMag (m := fmag a) (d := 2 ^ 149) (by simp only [infMag]; omega) (by positivity)
    rw [Nat.mul_comm, this, hi]
    simpa using packF_fsign_fmag a
  · have hm : fmag a = infMag := beq_iff_eq.1 hi
    have hz : isZero a = false := by
      rw [← Bool.not_eq_true, isZero_iff, hm]; decide
    rw [hi, hz, ← hm]
    simpa using packF_fsign_fmag a

theorem fmul_one (k : Nat) {a : F32} (h : isNaN a = false) : fmul k a one = a := by rw [fmul_comm, one_fmul k h]

theorem fval_eq_zero {a : F32} : fval a = 0 ↔ fmag a = 0 := by
  rw [← scaledMag_eq_zero, fval]
  split <;> omega

theorem isZero_cases {a : F32} (h : fmag a = 0) : a = posZero ∨ a = negZero := by
  rw [← packF_fsign_fmag a, h]
  cases fsign a
  · exact .inl (by decide)
  · exact .inr (by decide)

/-- `+0.0 (+) a` is `a`, except that it turns `-0.0` into `+0.0`. -/
theorem posZero_fadd (k : Nat) {a : F32} (h : isNaN a = false) (hz : a ≠ negZero) : fadd k posZero a = a := by
  have h1 : isNaN posZero = false ∧ isInf posZero = false ∧ fsign posZero = false ∧ fval posZero = 0 := by
    decide +kernel
  unfold fadd
  rw [h1.1, h1.2.1, h1.2.2.1, h1.2.2.2, h]
  rcases isZero_or_finite_or_inf h with hf | hi
  · have hlt := isFinite_iff.1 hf
    have hi : isInf a = false := by
      rw [← Bool.not_eq_true]; exact fun h' => absurd (beq_iff_eq.1 h') (by simp only [infMag]; omega)
    by_cases hm : fmag a = 0
    · rcases isZero_cases hm with rfl | rfl
      · rw [h1.2.2.2, h1.2.1, h1.2.2.1]
        rfl
      · exact absurd rfl hz
    · have hv : fval a ≠ 0 := fun h' => hm (fval_eq_zero.1 h')
      have hn : (fval a).natAbs = scaledMag (fmag a) := by
        rw [fval]; split <;> omega
      have hs : decide (fval a < 0) = fsign a := by
        have := mt scaledMag_eq_zero.1 hm
        rw [fval]
        cases fsign a
        · simp only [Bool.false_eq_true, if_false]
          exact decide_eq_false (by omega)
        · simp only [if_true]
          exact decide_eq_true (by omega)
      have hr := roundMag_scaledMag (m := fmag a) (d := 1) (by simp only [infMag]; omega) (by omega)
      simp only [hi, Bool.or_self, Bool.false_eq_true, if_false, Int.zero_add, hv, hs, hn]
      rw [Nat.mul_one] at hr
      rw [hr, packF_fsign_fmag]
  · simp [hi]

/-! ## A free value's index shows in a NaN only -/

/-- Two results that differ at most in the free value of their NaN. -/
theorem fadd_index (k j : Nat) (a b : F32) :
    fadd k a b = fadd j a b ∨ (fadd k a b = quietNaN k ∧ fadd j a b = quietNaN j) := by
  unfold fadd
  split
  · exact .inr ⟨rfl, rfl⟩
  · split
    · split
      · exact .inr ⟨rfl, rfl⟩
      · exact .inl rfl
    · exact .inl rfl

theorem fsub_index (k j : Nat) (a b : F32) :
    fsub k a b = fsub j a b ∨ (fsub k a b = quietNaN k ∧ fsub j a b = quietNaN j) := fadd_index k j a (fneg b)

theorem fmul_index (k j : Nat) (a b : F32) :
    fmul k a b = fmul j a b ∨ (fmul k a b = quietNaN k ∧ fmul j a b = quietNaN j) := by
  unfold fmul
  split
  · exact .inr ⟨rfl, rfl⟩
  · split
    · split
      · exact .inr ⟨rfl, rfl⟩
      · exact .inl rfl
    · exact .inl rfl

theorem fdiv_index (k j : Nat) (a b : F32) :
    fdiv k a b = fdiv j a b ∨ (fdiv k a b = quietNaN k ∧ fdiv j a b = quietNaN j) := by
  unfold fdiv
  split
  · exact .inr ⟨rfl, rfl⟩
  · split
    · split
      · exact .inr ⟨rfl, rfl⟩
      · exact .inl rfl
    · split
      · exact .inl rfl
      · split
        · split
          · exact .inr ⟨rfl, rfl⟩
          · exact .inl rfl
        · exact .inl rfl

theorem fadd_nan (k : Nat) {a b : F32} (h : isNaN a = true ∨ isNaN b = true) : fadd k a b = quietNaN k := by
  rcases h with h | h <;> simp [fadd, h]

theorem fsub_nan (k : Nat) {a b : F32} (h : isNaN a = true ∨ isNaN b = true) : fsub k a b = quietNaN k :=
  fadd_nan k (by rwa [isNaN_fneg])

theorem fmul_nan (k : Nat) {a b : F32} (h : isNaN a = true ∨ isNaN b = true) : fmul k a b = quietNaN k := by
  rcases h with h | h <;> simp [fmul, h]

theorem fdiv_nan (k : Nat) {a b : F32} (h : isNaN a = true ∨ isNaN b = true) : fdiv k a b = quietNaN k := by
  rcases h with h | h <;> simp [fdiv, h]

/-- Nothing is above `+Inf`. -/
theorem posInf_flt (q : F32) : flt 0x7F800000#32 q = false := by
  have hk : orderKey 0x7F800000#32 = 0x7F800000 := by decide
  simp only [flt, ordered, Bool.and_eq_false_iff, Bool.not_eq_false', decide_eq_false_iff_not, hk]
  by_cases hq : isNaN q = true
  · exact .inl (.inr hq)
  · have := mt isNaN_iff.2 hq
    refine .inr ?_
    rw [orderKey]
    split <;> omega

/-! ## `NUM` -/

@[simp] theorem binary32_add : binary32.add = fadd := rfl
@[simp] theorem binary32_sub : binary32.sub = fsub := rfl
@[simp] theorem binary32_mul : binary32.mul = fmul := rfl
@[simp] theorem binary32_div : binary32.div = fdiv := rfl
@[simp] theorem binary32_lt : binary32.lt = flt := rfl
@[simp] theorem binary32_le : binary32.le = fle := rfl
@[simp] theorem binary32_eq : binary32.eq = feq := rfl
@[simp] theorem binary32_sin : binary32.sin = sin32 .binary32 := rfl
@[simp] theorem binary32_cos : binary32.cos = cos32 .binary32 := rfl
@[simp] theorem binary32_exp : binary32.exp = exp32 .binary32 := rfl

/-- `NUM` of a configuration that names binary32. -/
theorem numOf_binary32 {cfg : Cfg} (h : cfg.num = .binary32) : numOf cfg = binary32 := by rw [numOf, h]; rfl

theorem nanDrawn_index (k j : Nat) (r : F32) :
    nanDrawn k r = nanDrawn j r ∨ (nanDrawn k r = quietNaN k ∧ nanDrawn j r = quietNaN j) := by
  unfold nanDrawn
  split
  · exact .inr ⟨rfl, rfl⟩
  · exact .inl rfl

/-- In every numerics a comparison with a NaN is false, and the two zeros are equal (R11). -/
theorem num_lt_nan (n : NumId) {a b : F32} (h : isNaN a = true ∨ isNaN b = true) : (numericsOf n).lt a b = false := by
  cases n <;> rcases h with h | h <;> simp [numericsOf, otherNumerics, compared, flt, ordered, h]

theorem num_le_nan (n : NumId) {a b : F32} (h : isNaN a = true ∨ isNaN b = true) : (numericsOf n).le a b = false := by
  cases n <;> rcases h with h | h <;> simp [numericsOf, otherNumerics, compared, fle, ordered, h]

theorem num_eq_nan (n : NumId) {a b : F32} (h : isNaN a = true ∨ isNaN b = true) : (numericsOf n).eq a b = false := by
  cases n <;> rcases h with h | h <;> simp [numericsOf, otherNumerics, compared, feq, ordered, h]

theorem compared_zero (zeros : Bool) (r : F32 → F32 → Bool) {a b : F32} (ha : isZero a = true) (hb : isZero b = true) :
    compared zeros r a b = zeros := by
  have hn : ordered a b = true := by
    rw [isZero_iff] at ha hb
    simp [ordered, isNaN, ha, hb, infMag]
  simp [compared, hn, ha, hb]

/-- In every numerics a free value's index shows in a NaN only. -/
theorem num_add_index (n : NumId) (k j : Nat) (a b : F32) :
    (numericsOf n).add k a b = (numericsOf n).add j a b ∨
      ((numericsOf n).add k a b = quietNaN k ∧ (numericsOf n).add j a b = quietNaN j) := by
  cases n
  · exact fadd_index k j a b
  · exact nanDrawn_index k j _

theorem num_sub_index (n : NumId) (k j : Nat) (a b : F32) :
    (numericsOf n).sub k a b = (numericsOf n).sub j a b ∨
      ((numericsOf n).sub k a b = quietNaN k ∧ (numericsOf n).sub j a b = quietNaN j) := by
  cases n
  · exact fsub_index k j a b
  · exact nanDrawn_index k j _

theorem num_mul_index (n : NumId) (k j : Nat) (a b : F32) :
    (numericsOf n).mul k a b = (numericsOf n).mul j a b ∨
      ((numericsOf n).mul k a b = quietNaN k ∧ (numericsOf n).mul j a b = quietNaN j) := by
  cases n
  · exact fmul_index k j a b
  · exact nanDrawn_index k j _

theorem num_div_index (n : NumId) (k j : Nat) (a b : F32) :
    (numericsOf n).div k a b = (numericsOf n).div j a b ∨
      ((numericsOf n).div k a b = quietNaN k ∧ (numericsOf n).div j a b = quietNaN j) := by
  cases n
  · exact fdiv_index k j a b
  · exact nanDrawn_index k j _

/-! ## The named properties (R15, R204) -/

theorem within_limitTo {lo hi : F32} (h : fle lo hi = true) (v : F32) : within lo hi (limitTo lo hi v) = true := by
  unfold limitTo
  split
  · assumption
  · have : fle hi hi = true := by
      simp only [fle, ordered, Bool.and_eq_true] at h ⊢
      simp [h.1.2]
    simp [within, h, this]

theorem sin32_zero (n : NumId) {a : F32} (h : isZero a = true) : sin32 n a = a := by simp [sin32, h]
theorem cos32_zero (n : NumId) {a : F32} (h : isZero a = true) : cos32 n a = one := by simp [cos32, h]
theorem exp32_zero (n : NumId) {a : F32} (h : isZero a = true) : exp32 n a = one := by simp [exp32, h]

theorem isZero_of_isNaN {a : F32} (h : isNaN a = true) : isZero a = false := by
  have := isNaN_iff.1 h
  rw [← Bool.not_eq_true, isZero_iff]
  omega

theorem isFinite_of_isNaN {a : F32} (h : isNaN a = true) : isFinite a = false := by
  have := isNaN_iff.1 h
  rw [← Bool.not_eq_true, isFinite_iff]
  omega

theorem isNaN_of_isFinite {a : F32} (h : isFinite a = true) : isNaN a = false := by
  have := isFinite_iff.1 h
  rw [← Bool.not_eq_true, isNaN_iff]
  omega

theorem sin32_nan (n : NumId) {a : F32} (h : isNaN a = true) : isNaN (sin32 n a) = true := by
  simp [sin32, h, isZero_of_isNaN h, isNaN_asNaN]

theorem cos32_nan (n : NumId) {a : F32} (h : isNaN a = true) : isNaN (cos32 n a) = true := by
  simp [cos32, h, isZero_of_isNaN h, isNaN_asNaN]

theorem exp32_nan (n : NumId) {a : F32} (h : isNaN a = true) : isNaN (exp32 n a) = true := by
  simp [exp32, h, isZero_of_isNaN h, isNaN_asNaN]

/-- `SIN_RANGE`. -/
theorem sin32_range (n : NumId) {a : F32} (h : isFinite a = true) : isZero a = true ∨ within minusOne one (sin32 n a) = true := by
  unfold sin32
  split
  · exact .inl ‹_›
  · rw [if_neg (by simp [isNaN_of_isFinite h])]
    exact .inr (within_limitTo (by decide) _)

/-- `COS_RANGE`. -/
theorem cos32_range (n : NumId) {a : F32} (h : isFinite a = true) : within minusOne one (cos32 n a) = true := by
  unfold cos32
  split
  · decide
  · rw [if_neg (by simp [isNaN_of_isFinite h])]
    exact within_limitTo (by decide) _

/-- `EXP_RANGE`. -/
theorem exp32_range (n : NumId) {a : F32} (h : isFinite a = true) (h0 : fle a posZero = true) :
    within posZero one (exp32 n a) = true := by
  unfold exp32
  split
  · decide
  · rw [if_neg (by simp [isNaN_of_isFinite h]), if_pos (by simp [h, h0])]
    exact within_limitTo (by decide) _

/-- Every draw lies in its closed interval (R204). -/
theorem draw_within (k : Nat) {lo hi : F32} (h : fle lo hi = true) : within lo hi (draw k lo hi) = true :=
  within_limitTo h _

end Sys2Proof.Machine
end

