-- ==== Sys2Proof/Laws/Delay.lean ====
section
/-! SUPPORT. Delays and tap spacings (spec/45_reverb.md R201, R206): multiplying by the sample rate and rounding to the
nearest integer are monotone, so a delay inside an interval gets a tap spacing between those of the interval's ends. -/

namespace Sys2Proof.Machine

theorem scaledMag_mono {m n : Nat} (h : m ≤ n) : scaledMag m ≤ scaledMag n := by
  have hm := Nat.div_add_mod m (2 ^ 23)
  have hn := Nat.div_add_mod n (2 ^ 23)
  have hm' := Nat.mod_lt m (show 2 ^ 23 > 0 by decide)
  have hn' := Nat.mod_lt n (show 2 ^ 23 > 0 by decide)
  unfold scaledMag
  split <;> rename_i h1
  · split <;> rename_i h2
    · exact h
    · calc m ≤ 2 ^ 23 + n % 2 ^ 23 := by omega
        _ ≤ _ := Nat.le_mul_of_pos_right _ (by positivity)
  · rw [if_neg (by have := Nat.div_le_div_right (c := 2 ^ 23) h; omega)]
    rcases (Nat.div_le_div_right h : m / 2 ^ 23 ≤ n / 2 ^ 23).lt_or_eq with h2 | h2
    · calc (2 ^ 23 + m % 2 ^ 23) * 2 ^ (m / 2 ^ 23 - 1) ≤ 2 ^ 24 * 2 ^ (m / 2 ^ 23 - 1) :=
            Nat.mul_le_mul_right _ (by omega)
        _ = 2 ^ 23 * 2 ^ (m / 2 ^ 23 - 1 + 1) := by ring
        _ ≤ 2 ^ 23 * 2 ^ (n / 2 ^ 23 - 1) := Nat.mul_le_mul_left _ (Nat.pow_le_pow_right (by decide) (by omega))
        _ ≤ _ := Nat.mul_le_mul_right _ (by omega)
    · rw [h2]
      exact Nat.mul_le_mul_right _ (by omega)

/-- The product of two finite numbers without sign. -/
theorem fmul_nonneg (k : Nat) {a c : F32} (ha : isFinite a = true) (hc : isFinite c = true) (sa : fsign a = false)
    (sc : fsign c = false) :
    fmul k a c = packF false (roundMag (scaledMag (fmag a) * scaledMag (fmag c)) (2 ^ 149)) := by
  have ia : isInf a = false := by
    have := isFinite_iff.1 ha
    rw [← Bool.not_eq_true]; exact fun h' => absurd (beq_iff_eq.1 h') (by simp only [infMag]; omega)
  have ic : isInf c = false := by
    have := isFinite_iff.1 hc
    rw [← Bool.not_eq_true]; exact fun h' => absurd (beq_iff_eq.1 h') (by simp only [infMag]; omega)
  simp [fmul, isNaN_of_isFinite ha, isNaN_of_isFinite hc, ia, ic, sa, sc]

theorem roundI_nonneg {m : Nat} (h : m < 0x7F800000) :
    roundI (packF false m) = some (((2 * scaledMag m + 2 ^ 149) / 2 ^ 150 : Nat) : Int) := by
  have hm : fmag (packF false m) = m := fmag_packF _ (by omega)
  have hs : fsign (packF false m) = false := fsign_packF _ (by omega)
  unfold roundI
  rw [if_pos (isFinite_iff.2 (by rw [hm]; exact h)), hm, hs]
  simp

theorem roundI_eq_none {m : Nat} (h : 0x7F800000 ≤ m) (h' : m < 2 ^ 31) : roundI (packF false m) = none := by
  unfold roundI
  rw [if_neg (by rw [isFinite_iff, fmag_packF _ h']; omega)]

/-- What lies in an interval of positive numbers is positive and has magnitude bits between those of its ends. -/
theorem within_pos {lo hi v : F32} (hlo : fsign lo = false) (h0 : 0 < fmag lo) (h : within lo hi v = true) :
    fsign v = false ∧ fsign hi = false ∧ fmag lo ≤ fmag v ∧ fmag v ≤ fmag hi := by
  simp only [within, fle, ordered, Bool.and_eq_true, decide_eq_true_eq, orderKey, hlo] at h
  obtain ⟨⟨-, h1⟩, -, h2⟩ := h
  cases hv : fsign v <;> cases hh : fsign hi <;> simp [hv, hh] at h1 h2 ⊢ <;> omega

/-- Under binary32, a delay inside an interval of positive delays has a tap spacing between those of the interval's ends. -/
theorem delayTaps_between {cfg : Cfg} {lo hi v : F32} {a b : Int} (hn : cfg.num = .binary32)
    (hfs : isFinite cfg.fs = true) (sfs : fsign cfg.fs = false)
    (slo : fsign lo = false) (h0 : 0 < fmag lo) (hhi : isFinite hi = true) (h : within lo hi v = true)
    (ha : delayTaps cfg lo = some a) (hb : delayTaps cfg hi = some b) :
    ∃ d, delayTaps cfg v = some d ∧ a ≤ d ∧ d ≤ b := by
  obtain ⟨sv, shi, h1, h2⟩ := within_pos slo h0 h
  have fhi := isFinite_iff.1 hhi
  have fv : isFinite v = true := isFinite_iff.2 (by omega)
  have flo : isFinite lo = true := isFinite_iff.2 (by omega)
  simp only [delayTaps, numOf_binary32 hn, binary32_mul, fmul_nonneg 0 flo hfs slo sfs, fmul_nonneg 0 hhi hfs shi sfs,
    fmul_nonneg 0 fv hfs sv sfs] at ha hb ⊢
  have m1 := roundMag_mono (2 ^ 149) (Nat.mul_le_mul_right (scaledMag (fmag cfg.fs)) (scaledMag_mono h1))
  have m2 := roundMag_mono (2 ^ 149) (Nat.mul_le_mul_right (scaledMag (fmag cfg.fs)) (scaledMag_mono h2))
  have hlt : roundMag (scaledMag (fmag hi) * scaledMag (fmag cfg.fs)) (2 ^ 149) < 0x7F800000 := by
    rcases Nat.lt_or_ge (roundMag (scaledMag (fmag hi) * scaledMag (fmag cfg.fs)) (2 ^ 149)) 0x7F800000 with h3 | h3
    · exact h3
    · rw [roundI_eq_none h3 (roundMag_lt _ _)] at hb
      cases hb
  rw [roundI_nonneg (by omega)] at ha hb
  rw [roundI_nonneg (by omega)]
  refine ⟨_, rfl, ?_, ?_⟩
  · rw [← Option.some.inj ha]
    have := scaledMag_mono m1
    exact Int.ofNat_le.2 (Nat.div_le_div_right (by omega))
  · rw [← Option.some.inj hb]
    have := scaledMag_mono m2
    exact Int.ofNat_le.2 (Nat.div_le_div_right (by omega))

end Sys2Proof.Machine
end

