-- ==== Sys2Proof/Laws/PerInstr.lean ====
section
/-! SUPPORT. The family `EncodedFields`: what the word of each command holds in its `OPC`, `UNIT` and `RSV` fields
(spec/30_encoding.md R80, R81, R83), one lemma per command. -/

namespace Sys2Proof.Laws

/-- The encoded word of a command carries its opcode, its unit and a zero `RSV`. -/
def EncodedFields.Statement (i : Instr) : Prop :=
  opcField (encode i) = opcode i ∧ unitField (encode i) = unitCode i.unit ∧ rsvField (encode i) = 0#16

theorem EncodedFields.all (i : Instr) : EncodedFields.Statement i :=
  ⟨opcField_pack _ _ _ _ _ _, unitField_pack _ _ _ _ _ _, rsvField_pack _ _ _ _ _ _⟩

theorem EncodedFields.procSec (n : Nat) :
    EncodedFields.Statement (.procSec n) := EncodedFields.all _

theorem EncodedFields.procShlf (n : Nat) :
    EncodedFields.Statement (.procShlf n) := EncodedFields.all _

theorem EncodedFields.procWah (n : Nat) (sc : Bool) :
    EncodedFields.Statement (.procWah n sc) := EncodedFields.all _

theorem EncodedFields.procFlng (n : Nat) :
    EncodedFields.Statement (.procFlng n) := EncodedFields.all _

theorem EncodedFields.procDist (n : Nat) :
    EncodedFields.Statement (.procDist n) := EncodedFields.all _

theorem EncodedFields.procRvrb (n : Nat) :
    EncodedFields.Statement (.procRvrb n) := EncodedFields.all _

theorem EncodedFields.setEnabledShlf (en : Bool) :
    EncodedFields.Statement (.setEnabledShlf en) := EncodedFields.all _

theorem EncodedFields.setEnabledWah (en : Bool) :
    EncodedFields.Statement (.setEnabledWah en) := EncodedFields.all _

theorem EncodedFields.setEnabledFlng (en : Bool) :
    EncodedFields.Statement (.setEnabledFlng en) := EncodedFields.all _

theorem EncodedFields.setEnabledDist (en : Bool) :
    EncodedFields.Statement (.setEnabledDist en) := EncodedFields.all _

theorem EncodedFields.setEnabledRvrb (en : Bool) :
    EncodedFields.Statement (.setEnabledRvrb en) := EncodedFields.all _

theorem EncodedFields.setWetGammaFlng (g : F32) :
    EncodedFields.Statement (.setWetGammaFlng g) := EncodedFields.all _

theorem EncodedFields.setWetGammaDist (g : F32) :
    EncodedFields.Statement (.setWetGammaDist g) := EncodedFields.all _

theorem EncodedFields.setWetGammaRvrb (g : F32) :
    EncodedFields.Statement (.setWetGammaRvrb g) := EncodedFields.all _

theorem EncodedFields.setLfoFreqWah (v : F32) :
    EncodedFields.Statement (.setLfoFreqWah v) := EncodedFields.all _

theorem EncodedFields.setLfoFreqFlng (v : F32) :
    EncodedFields.Statement (.setLfoFreqFlng v) := EncodedFields.all _

theorem EncodedFields.setTapsSec (ffFirst ffLast fbLast : F32) :
    EncodedFields.Statement (.setTapsSec ffFirst ffLast fbLast) := EncodedFields.all _

theorem EncodedFields.resetHistSec :
    EncodedFields.Statement (.resetHistSec) := EncodedFields.all _

theorem EncodedFields.setTypeShlf (t : Word32) :
    EncodedFields.Statement (.setTypeShlf t) := EncodedFields.all _

theorem EncodedFields.setGainShlf (g : F32) :
    EncodedFields.Statement (.setGainShlf g) := EncodedFields.all _

theorem EncodedFields.setCutoffShlf (c : F32) :
    EncodedFields.Statement (.setCutoffShlf c) := EncodedFields.all _

theorem EncodedFields.setCutoffMinWah (v : F32) :
    EncodedFields.Statement (.setCutoffMinWah v) := EncodedFields.all _

theorem EncodedFields.setCutoffMaxWah (v : F32) :
    EncodedFields.Statement (.setCutoffMaxWah v) := EncodedFields.all _

theorem EncodedFields.setDampWah (v : F32) :
    EncodedFields.Statement (.setDampWah v) := EncodedFields.all _

theorem EncodedFields.setDistFuncDist (code : Word32) :
    EncodedFields.Statement (.setDistFuncDist code) := EncodedFields.all _

theorem EncodedFields.setBoostDist (b : F32) :
    EncodedFields.Statement (.setBoostDist b) := EncodedFields.all _

theorem EncodedFields.setCombModeRvrb (m : Mode) :
    EncodedFields.Statement (.setCombModeRvrb m) := EncodedFields.all _

theorem EncodedFields.setApModeRvrb (m : Mode) :
    EncodedFields.Statement (.setApModeRvrb m) := EncodedFields.all _

end Sys2Proof.Laws
end

