-- ==== Sys2Proof/Laws/Ring.lean ====
section
/-! SUPPORT. The laws of the ring primitives (spec/20_memory.md R61 to R65): no operation changes a capacity, which is
the canonical form of this hardware's storage; what the oldest entry, a push and a fill give; and that the filters keep
the canonical form of the records they work on. -/

namespace Sys2Proof.Machine

@[simp] theorem ringPush_length (b : List F32) (v : F32) : (ringPush b v).length = b.length := by
  simp [ringPush]

@[simp] theorem ringFill_length (b : List F32) (v : F32) : (ringFill b v).length = b.length := by
  simp [ringFill]

theorem ringPush_cons (a : F32) (b : List F32) (v : F32) : ringPush (a :: b) v = b ++ [v] := rfl

theorem ringOldest_cons (a : F32) (b : List F32) : ringOldest (a :: b) = a := rfl

theorem ringPush_getElem? (b : List F32) (v : F32) (i : Nat) : (ringPush b v)[i]? = (b ++ [v])[i + 1]? := by
  simp [ringPush]

/-- `n` pushes leave the last `b.length` entries of what was there followed by what was pushed. -/
theorem ringPush_foldl (b vs : List F32) : vs.foldl ringPush b = (b ++ vs).drop vs.length := by
  induction vs generalizing b with
  | nil => simp
  | cons v vs ih =>
    rw [List.foldl_cons, ih]
    cases b <;> simp [ringPush]

/-- `RingAt` has a meaning exactly inside the buffer, under either origin (R63). -/
theorem ringAt_isSome (o : TapOrigin) (b : List F32) (i : Nat) : (ringAt o b i).isSome = decide (i < b.length) := by
  cases o <;> by_cases h : i < b.length <;> simp [ringAt, h]

theorem ringAt_newest (b : List F32) (i : Nat) (h : i < b.length) : ringAt .newest b i = b[b.length - 1 - i]? := by
  simp [ringAt, List.getElem?_reverse h]

/-! ## Canonical form -/

theorem Section.Ok.secNew {dmax d : Nat} (a b c : F32) (h1 : 1 ≤ d) (h2 : d ≤ dmax) :
    (secNew d a b c).Ok dmax :=
  ⟨h1, h2, by simp [Machine.secNew], by simp [Machine.secNew]⟩

theorem secFilter_ok {dmax : Nat} {S : Section} (h : S.Ok dmax) (N : Numerics) (k : Nat) (x : F32) :
    (secFilter N k S x).1.Ok dmax :=
  ⟨h.pos, h.fits, by simp [secFilter, h.xh], by simp [secFilter, h.yh]⟩

theorem bankStep_ok {dmax : Nat} {b : Bank} (h : b.Ok dmax) (N : Numerics) (k : Nat) (x : F32) :
    (bankStep N k b x).1.Ok dmax :=
  ⟨secFilter_ok h.comb0 _ _ _, secFilter_ok h.comb1 _ _ _, secFilter_ok h.comb2 _ _ _, secFilter_ok h.comb3 _ _ _,
    secFilter_ok h.ap0 _ _ _, secFilter_ok h.ap1 _ _ _, secFilter_ok h.ap2 _ _ _⟩

/-- A Flanger sample that has a meaning keeps `CAP`, the parameters and the length of the delay line. -/
theorem flngFilter_frame {k : Nat} {cfg : Cfg} {f g : Flng} {x y : F32} (h : flngFilter k cfg f x = .ok (g, y)) :
    g = { f with buf := ringPush f.buf x, phase := (flngLfoNext (numOf cfg) k cfg.fs f).1.phase } := by
  unfold flngFilter at h
  simp only at h
  split at h
  · cases h
  · simp only [Except.ok.injEq, Prod.mk.injEq] at h
    exact h.1.symm

/-- A Flanger sample whose tap read has a meaning. -/
theorem flngFilter_of_tap {k : Nat} {cfg : Cfg} {f : Flng} {wet : F32} (x : F32)
    (h : flngTap cfg.tapOrigin f.buf f.lfoFreq
      (flngIndex (numOf cfg) (k + 6) f.cap (flngLfoNext (numOf cfg) k cfg.fs f).2) = .ok wet) :
    flngFilter k cfg f x =
      .ok ({ (flngLfoNext (numOf cfg) k cfg.fs f).1 with buf := ringPush f.buf x },
        mix (numOf cfg) (k + 7) wet x f.wetGamma) := by
  simp [flngFilter, h]

/-- A Flanger sample whose tap read has none. -/
theorem flngFilter_of_tap_error {k : Nat} {cfg : Cfg} {f : Flng} {why : NoMeaning} (x : F32)
    (h : flngTap cfg.tapOrigin f.buf f.lfoFreq
      (flngIndex (numOf cfg) (k + 6) f.cap (flngLfoNext (numOf cfg) k cfg.fs f).2) = .error why) :
    flngFilter k cfg f x = .error why := by
  simp [flngFilter, h]

/-- The tap read has a meaning exactly for a finite rate and an index inside the buffer; it gives the entry there. -/
theorem flngTap_eq_ok {o : TapOrigin} {b : List F32} {freq wet : F32} {idx : Option Int} :
    flngTap o b freq idx = .ok wet ↔
      isFinite freq = true ∧ ∃ i : Nat, idx = some (i : Int) ∧ ringAt o b i = some wet := by
  unfold flngTap
  cases idx with
  | none => simp
  | some j =>
    by_cases ha : isFinite freq = true
    · by_cases hj : 0 ≤ j
      · lift j to Nat using hj
        simp only [ha, Int.toNat_natCast]
        cases h : ringAt o b j <;> simp [h]
      · simp only [ha, hj, decide_false, Bool.and_false, Bool.false_eq_true, if_false, reduceCtorEq, false_iff,
          true_and, Option.some.injEq, not_exists]
        rintro i ⟨rfl, -⟩
        exact hj (Int.natCast_nonneg i)
    · simp [ha]

/-- At a rate that is not finite the tap read faults, whatever index came out (R163, R166). -/
theorem flngTap_of_not_finite {o : TapOrigin} {b : List F32} {freq : F32} {idx : Option Int}
    (h : isFinite freq = false) : flngTap o b freq idx = .error .round ∨ flngTap o b freq idx = .error .tapIndex := by
  cases idx <;> simp [flngTap, h]

theorem flngFilter_ok {k : Nat} {cfg : Cfg} {f g : Flng} {x y : F32} (hf : f.Ok cfg)
    (h : flngFilter k cfg f x = .ok (g, y)) : g.Ok cfg := by
  rw [flngFilter_frame h]
  exact ⟨hf.cap, hf.pos, hf.fits, by simp [hf.buf]⟩

/-- A section made from a delay is in canonical form, with zero histories and the coefficients given. -/
theorem secOfDelay_eq_ok {cfg : Cfg} {delay a b c : F32} {S : Section} :
    secOfDelay cfg delay a b c = .ok S ↔
      ∃ d : Int, delayTaps cfg delay = some d ∧ 1 ≤ d ∧ d ≤ (cfg.dmax : Int) ∧ S = Machine.secNew d.toNat a b c := by
  unfold secOfDelay
  cases delayTaps cfg delay with
  | none => simp
  | some d =>
    simp only [Option.some.injEq, exists_eq_left']
    split <;> rename_i hd
    · simp only [Except.ok.injEq, eq_comm, hd, true_and]
    · simp only [reduceCtorEq, false_iff]
      exact fun h => hd ⟨h.1, h.2.1⟩

theorem secOfDelay_ok {cfg : Cfg} {delay a b c : F32} {S : Section} (h : secOfDelay cfg delay a b c = .ok S) :
    S.Ok cfg.dmax := by
  obtain ⟨d, -, h1, h2, rfl⟩ := secOfDelay_eq_ok.1 h
  exact Section.Ok.secNew _ _ _ (by omega) (by omega)

end Sys2Proof.Machine
end

