-- ==== Sys2Proof/Laws/State.lean ====
section
/-! SUPPORT. What each named update of the state does to each field, true by `rfl`, so that no later proof unfolds a
record update; and what the operations that may answer nothing answer. -/

namespace Sys2Proof.Machine

/-! ## Responses -/

@[simp] theorem respond_cfg (r : ResponseWord) (s : State) : (respond r s).cfg = s.cfg := rfl
@[simp] theorem respond_sec (r : ResponseWord) (s : State) : (respond r s).sec = s.sec := rfl
@[simp] theorem respond_shlf (r : ResponseWord) (s : State) : (respond r s).shlf = s.shlf := rfl
@[simp] theorem respond_wah (r : ResponseWord) (s : State) : (respond r s).wah = s.wah := rfl
@[simp] theorem respond_flng (r : ResponseWord) (s : State) : (respond r s).flng = s.flng := rfl
@[simp] theorem respond_dist (r : ResponseWord) (s : State) : (respond r s).dist = s.dist := rfl
@[simp] theorem respond_rvrb (r : ResponseWord) (s : State) : (respond r s).rvrb = s.rvrb := rfl
@[simp] theorem respond_in0 (r : ResponseWord) (s : State) : (respond r s).in0 = s.in0 := rfl
@[simp] theorem respond_in1 (r : ResponseWord) (s : State) : (respond r s).in1 = s.in1 := rfl
@[simp] theorem respond_out (r : ResponseWord) (s : State) : (respond r s).out = s.out := rfl
@[simp] theorem respond_cmds (r : ResponseWord) (s : State) : (respond r s).cmds = s.cmds := rfl
@[simp] theorem respond_resp (r : ResponseWord) (s : State) : (respond r s).resp = s.resp ++ [r] := rfl
@[simp] theorem respond_busy (r : ResponseWord) (s : State) : (respond r s).busy = s.busy := rfl
@[simp] theorem respond_draws (r : ResponseWord) (s : State) : (respond r s).draws = s.draws := rfl

@[simp] theorem respondOk_cfg (n : Nat) (s : State) : (respondOk n s).cfg = s.cfg := rfl
@[simp] theorem respondOk_sec (n : Nat) (s : State) : (respondOk n s).sec = s.sec := rfl
@[simp] theorem respondOk_shlf (n : Nat) (s : State) : (respondOk n s).shlf = s.shlf := rfl
@[simp] theorem respondOk_wah (n : Nat) (s : State) : (respondOk n s).wah = s.wah := rfl
@[simp] theorem respondOk_flng (n : Nat) (s : State) : (respondOk n s).flng = s.flng := rfl
@[simp] theorem respondOk_dist (n : Nat) (s : State) : (respondOk n s).dist = s.dist := rfl
@[simp] theorem respondOk_rvrb (n : Nat) (s : State) : (respondOk n s).rvrb = s.rvrb := rfl
@[simp] theorem respondOk_in0 (n : Nat) (s : State) : (respondOk n s).in0 = s.in0 := rfl
@[simp] theorem respondOk_in1 (n : Nat) (s : State) : (respondOk n s).in1 = s.in1 := rfl
@[simp] theorem respondOk_out (n : Nat) (s : State) : (respondOk n s).out = s.out := rfl
@[simp] theorem respondOk_cmds (n : Nat) (s : State) : (respondOk n s).cmds = s.cmds := rfl
@[simp] theorem respondOk_resp (n : Nat) (s : State) : (respondOk n s).resp = s.resp ++ [okWord n] := rfl
@[simp] theorem respondOk_busy (n : Nat) (s : State) : (respondOk n s).busy = s.busy := rfl
@[simp] theorem respondOk_draws (n : Nat) (s : State) : (respondOk n s).draws = s.draws := rfl

@[simp] theorem reject_cfg (e : Rejection) (s : State) : (reject e s).cfg = s.cfg := rfl
@[simp] theorem reject_sec (e : Rejection) (s : State) : (reject e s).sec = s.sec := rfl
@[simp] theorem reject_shlf (e : Rejection) (s : State) : (reject e s).shlf = s.shlf := rfl
@[simp] theorem reject_wah (e : Rejection) (s : State) : (reject e s).wah = s.wah := rfl
@[simp] theorem reject_flng (e : Rejection) (s : State) : (reject e s).flng = s.flng := rfl
@[simp] theorem reject_dist (e : Rejection) (s : State) : (reject e s).dist = s.dist := rfl
@[simp] theorem reject_rvrb (e : Rejection) (s : State) : (reject e s).rvrb = s.rvrb := rfl
@[simp] theorem reject_in0 (e : Rejection) (s : State) : (reject e s).in0 = s.in0 := rfl
@[simp] theorem reject_in1 (e : Rejection) (s : State) : (reject e s).in1 = s.in1 := rfl
@[simp] theorem reject_out (e : Rejection) (s : State) : (reject e s).out = s.out := rfl
@[simp] theorem reject_cmds (e : Rejection) (s : State) : (reject e s).cmds = s.cmds := rfl
@[simp] theorem reject_resp (e : Rejection) (s : State) : (reject e s).resp = s.resp ++ [rejectionWord e] := rfl
@[simp] theorem reject_busy (e : Rejection) (s : State) : (reject e s).busy = s.busy := rfl
@[simp] theorem reject_draws (e : Rejection) (s : State) : (reject e s).draws = s.draws := rfl

/-! ## Streams and the command port -/

@[simp] theorem pushOut_cfg (v : F32) (s : State) : (pushOut v s).cfg = s.cfg := rfl
@[simp] theorem pushOut_sec (v : F32) (s : State) : (pushOut v s).sec = s.sec := rfl
@[simp] theorem pushOut_shlf (v : F32) (s : State) : (pushOut v s).shlf = s.shlf := rfl
@[simp] theorem pushOut_wah (v : F32) (s : State) : (pushOut v s).wah = s.wah := rfl
@[simp] theorem pushOut_flng (v : F32) (s : State) : (pushOut v s).flng = s.flng := rfl
@[simp] theorem pushOut_dist (v : F32) (s : State) : (pushOut v s).dist = s.dist := rfl
@[simp] theorem pushOut_rvrb (v : F32) (s : State) : (pushOut v s).rvrb = s.rvrb := rfl
@[simp] theorem pushOut_in0 (v : F32) (s : State) : (pushOut v s).in0 = s.in0 := rfl
@[simp] theorem pushOut_in1 (v : F32) (s : State) : (pushOut v s).in1 = s.in1 := rfl
@[simp] theorem pushOut_out (v : F32) (s : State) : (pushOut v s).out = s.out ++ [v] := rfl
@[simp] theorem pushOut_cmds (v : F32) (s : State) : (pushOut v s).cmds = s.cmds := rfl
@[simp] theorem pushOut_resp (v : F32) (s : State) : (pushOut v s).resp = s.resp := rfl
@[simp] theorem pushOut_busy (v : F32) (s : State) : (pushOut v s).busy = s.busy := rfl
@[simp] theorem pushOut_draws (v : F32) (s : State) : (pushOut v s).draws = s.draws := rfl

theorem popIn0_eq_some {s : State} {x : F32} {t : State} :
    popIn0 s = some (x, t) ↔ ∃ xs, s.in0 = x :: xs ∧ t = { s with in0 := xs } := by
  unfold popIn0
  split <;> simp_all [eq_comm]

theorem popIn0_eq_none {s : State} : popIn0 s = none ↔ s.in0 = [] := by
  unfold popIn0
  split <;> simp_all

theorem popIn1_eq_some {s : State} {x : F32} {t : State} :
    popIn1 s = some (x, t) ↔ ∃ xs, s.in1 = x :: xs ∧ t = { s with in1 := xs } := by
  unfold popIn1
  split <;> simp_all [eq_comm]

theorem popIn1_eq_none {s : State} : popIn1 s = none ↔ s.in1 = [] := by
  unfold popIn1
  split <;> simp_all

theorem takeCommand_eq_some {s : State} {w : CommandWord} {t : State} :
    takeCommand s = some (w, t) ↔ ∃ ws, s.cmds = w :: ws ∧ t = { s with cmds := ws } := by
  unfold takeCommand
  split <;> simp_all [eq_comm]

theorem takeCommand_eq_none {s : State} : takeCommand s = none ↔ s.cmds = [] := by
  unfold takeCommand
  split <;> simp_all

/-! ## Flags -/

@[simp] theorem markDirty_combMode (r : Rvrb) : (markDirty r).combMode = r.combMode := rfl
@[simp] theorem markDirty_apMode (r : Rvrb) : (markDirty r).apMode = r.apMode := rfl
@[simp] theorem markDirty_wetGamma (r : Rvrb) : (markDirty r).wetGamma = r.wetGamma := rfl
@[simp] theorem markDirty_en (r : Rvrb) : (markDirty r).en = r.en := rfl
@[simp] theorem markDirty_dirty (r : Rvrb) : (markDirty r).dirty = true := rfl
@[simp] theorem markDirty_bank (r : Rvrb) : (markDirty r).bank = r.bank := rfl

@[simp] theorem clearDirty_combMode (r : Rvrb) : (clearDirty r).combMode = r.combMode := rfl
@[simp] theorem clearDirty_apMode (r : Rvrb) : (clearDirty r).apMode = r.apMode := rfl
@[simp] theorem clearDirty_wetGamma (r : Rvrb) : (clearDirty r).wetGamma = r.wetGamma := rfl
@[simp] theorem clearDirty_en (r : Rvrb) : (clearDirty r).en = r.en := rfl
@[simp] theorem clearDirty_dirty (r : Rvrb) : (clearDirty r).dirty = false := rfl
@[simp] theorem clearDirty_bank (r : Rvrb) : (clearDirty r).bank = r.bank := rfl

@[simp] theorem enabledOut_true (y x : F32) : enabledOut true y x = y := rfl
@[simp] theorem enabledOut_false (y x : F32) : enabledOut false y x = x := rfl

/-! ## The Shelving commit -/

@[simp] theorem shelfCommit_cfg (t : ShelfType) (g c : F32) (s : State) : (shelfCommit t g c s).cfg = s.cfg := rfl
@[simp] theorem shelfCommit_sec (t : ShelfType) (g c : F32) (s : State) : (shelfCommit t g c s).sec = s.sec := rfl
@[simp] theorem shelfCommit_shlf (t : ShelfType) (g c : F32) (s : State) : (shelfCommit t g c s).shlf = 
    { s.shlf with shelfType := t, gainDb := g, cutoff := c, coef := designFor s.cfg t g c } := rfl
@[simp] theorem shelfCommit_wah (t : ShelfType) (g c : F32) (s : State) : (shelfCommit t g c s).wah = s.wah := rfl
@[simp] theorem shelfCommit_flng (t : ShelfType) (g c : F32) (s : State) : (shelfCommit t g c s).flng = s.flng := rfl
@[simp] theorem shelfCommit_dist (t : ShelfType) (g c : F32) (s : State) : (shelfCommit t g c s).dist = s.dist := rfl
@[simp] theorem shelfCommit_rvrb (t : ShelfType) (g c : F32) (s : State) : (shelfCommit t g c s).rvrb = s.rvrb := rfl
@[simp] theorem shelfCommit_in0 (t : ShelfType) (g c : F32) (s : State) : (shelfCommit t g c s).in0 = s.in0 := rfl
@[simp] theorem shelfCommit_in1 (t : ShelfType) (g c : F32) (s : State) : (shelfCommit t g c s).in1 = s.in1 := rfl
@[simp] theorem shelfCommit_out (t : ShelfType) (g c : F32) (s : State) : (shelfCommit t g c s).out = s.out := rfl
@[simp] theorem shelfCommit_cmds (t : ShelfType) (g c : F32) (s : State) : (shelfCommit t g c s).cmds = s.cmds := rfl
@[simp] theorem shelfCommit_resp (t : ShelfType) (g c : F32) (s : State) : (shelfCommit t g c s).resp = s.resp := rfl
@[simp] theorem shelfCommit_busy (t : ShelfType) (g c : F32) (s : State) : (shelfCommit t g c s).busy = s.busy := rfl
@[simp] theorem shelfCommit_draws (t : ShelfType) (g c : F32) (s : State) : (shelfCommit t g c s).draws = s.draws := rfl

/-! ## Samples: the units whose samples have no situation without a meaning, unless they draw by case -/

@[simp] theorem secSample_cfg (x : F32) (s : State) : ((secSample x s).1).cfg = s.cfg := rfl
@[simp] theorem secSample_sec (x : F32) (s : State) : ((secSample x s).1).sec = (secFilter (numOf s.cfg) s.draws s.sec x).1 := rfl
@[simp] theorem secSample_shlf (x : F32) (s : State) : ((secSample x s).1).shlf = s.shlf := rfl
@[simp] theorem secSample_wah (x : F32) (s : State) : ((secSample x s).1).wah = s.wah := rfl
@[simp] theorem secSample_flng (x : F32) (s : State) : ((secSample x s).1).flng = s.flng := rfl
@[simp] theorem secSample_dist (x : F32) (s : State) : ((secSample x s).1).dist = s.dist := rfl
@[simp] theorem secSample_rvrb (x : F32) (s : State) : ((secSample x s).1).rvrb = s.rvrb := rfl
@[simp] theorem secSample_in0 (x : F32) (s : State) : ((secSample x s).1).in0 = s.in0 := rfl
@[simp] theorem secSample_in1 (x : F32) (s : State) : ((secSample x s).1).in1 = s.in1 := rfl
@[simp] theorem secSample_out (x : F32) (s : State) : ((secSample x s).1).out = s.out := rfl
@[simp] theorem secSample_cmds (x : F32) (s : State) : ((secSample x s).1).cmds = s.cmds := rfl
@[simp] theorem secSample_resp (x : F32) (s : State) : ((secSample x s).1).resp = s.resp := rfl
@[simp] theorem secSample_busy (x : F32) (s : State) : ((secSample x s).1).busy = s.busy := rfl
@[simp] theorem secSample_draws (x : F32) (s : State) : ((secSample x s).1).draws = s.draws + 5 := rfl

@[simp] theorem shlfSample_cfg (x : F32) (s : State) : ((shlfSample x s).1).cfg = s.cfg := rfl
@[simp] theorem shlfSample_sec (x : F32) (s : State) : ((shlfSample x s).1).sec = s.sec := rfl
@[simp] theorem shlfSample_shlf (x : F32) (s : State) : ((shlfSample x s).1).shlf = (bqStep (numOf s.cfg) s.draws s.shlf x).1 := rfl
@[simp] theorem shlfSample_wah (x : F32) (s : State) : ((shlfSample x s).1).wah = s.wah := rfl
@[simp] theorem shlfSample_flng (x : F32) (s : State) : ((shlfSample x s).1).flng = s.flng := rfl
@[simp] theorem shlfSample_dist (x : F32) (s : State) : ((shlfSample x s).1).dist = s.dist := rfl
@[simp] theorem shlfSample_rvrb (x : F32) (s : State) : ((shlfSample x s).1).rvrb = s.rvrb := rfl
@[simp] theorem shlfSample_in0 (x : F32) (s : State) : ((shlfSample x s).1).in0 = s.in0 := rfl
@[simp] theorem shlfSample_in1 (x : F32) (s : State) : ((shlfSample x s).1).in1 = s.in1 := rfl
@[simp] theorem shlfSample_out (x : F32) (s : State) : ((shlfSample x s).1).out = s.out := rfl
@[simp] theorem shlfSample_cmds (x : F32) (s : State) : ((shlfSample x s).1).cmds = s.cmds := rfl
@[simp] theorem shlfSample_resp (x : F32) (s : State) : ((shlfSample x s).1).resp = s.resp := rfl
@[simp] theorem shlfSample_busy (x : F32) (s : State) : ((shlfSample x s).1).busy = s.busy := rfl
@[simp] theorem shlfSample_draws (x : F32) (s : State) : ((shlfSample x s).1).draws = s.draws + 9 := rfl

@[simp] theorem wahSample_cfg (e : Option F32) (x : F32) (s : State) : ((wahSample e x s).1).cfg = s.cfg := rfl
@[simp] theorem wahSample_sec (e : Option F32) (x : F32) (s : State) : ((wahSample e x s).1).sec = s.sec := rfl
@[simp] theorem wahSample_shlf (e : Option F32) (x : F32) (s : State) : ((wahSample e x s).1).shlf = s.shlf := rfl
@[simp] theorem wahSample_wah (e : Option F32) (x : F32) (s : State) : ((wahSample e x s).1).wah = (wahFilter (numOf s.cfg) s.draws s.cfg.fs e s.wah x).1 := rfl
@[simp] theorem wahSample_flng (e : Option F32) (x : F32) (s : State) : ((wahSample e x s).1).flng = s.flng := rfl
@[simp] theorem wahSample_dist (e : Option F32) (x : F32) (s : State) : ((wahSample e x s).1).dist = s.dist := rfl
@[simp] theorem wahSample_rvrb (e : Option F32) (x : F32) (s : State) : ((wahSample e x s).1).rvrb = s.rvrb := rfl
@[simp] theorem wahSample_in0 (e : Option F32) (x : F32) (s : State) : ((wahSample e x s).1).in0 = s.in0 := rfl
@[simp] theorem wahSample_in1 (e : Option F32) (x : F32) (s : State) : ((wahSample e x s).1).in1 = s.in1 := rfl
@[simp] theorem wahSample_out (e : Option F32) (x : F32) (s : State) : ((wahSample e x s).1).out = s.out := rfl
@[simp] theorem wahSample_cmds (e : Option F32) (x : F32) (s : State) : ((wahSample e x s).1).cmds = s.cmds := rfl
@[simp] theorem wahSample_resp (e : Option F32) (x : F32) (s : State) : ((wahSample e x s).1).resp = s.resp := rfl
@[simp] theorem wahSample_busy (e : Option F32) (x : F32) (s : State) : ((wahSample e x s).1).busy = s.busy := rfl
@[simp] theorem wahSample_draws (e : Option F32) (x : F32) (s : State) : ((wahSample e x s).1).draws = s.draws + 20 := rfl

@[simp] theorem rvrbSample_cfg (x : F32) (s : State) : ((rvrbSample x s).1).cfg = s.cfg := rfl
@[simp] theorem rvrbSample_sec (x : F32) (s : State) : ((rvrbSample x s).1).sec = s.sec := rfl
@[simp] theorem rvrbSample_shlf (x : F32) (s : State) : ((rvrbSample x s).1).shlf = s.shlf := rfl
@[simp] theorem rvrbSample_wah (x : F32) (s : State) : ((rvrbSample x s).1).wah = s.wah := rfl
@[simp] theorem rvrbSample_flng (x : F32) (s : State) : ((rvrbSample x s).1).flng = s.flng := rfl
@[simp] theorem rvrbSample_dist (x : F32) (s : State) : ((rvrbSample x s).1).dist = s.dist := rfl
@[simp] theorem rvrbSample_rvrb (x : F32) (s : State) : ((rvrbSample x s).1).rvrb = { s.rvrb with bank := (bankStep (numOf s.cfg) s.draws s.rvrb.bank x).1 } := rfl
@[simp] theorem rvrbSample_in0 (x : F32) (s : State) : ((rvrbSample x s).1).in0 = s.in0 := rfl
@[simp] theorem rvrbSample_in1 (x : F32) (s : State) : ((rvrbSample x s).1).in1 = s.in1 := rfl
@[simp] theorem rvrbSample_out (x : F32) (s : State) : ((rvrbSample x s).1).out = s.out := rfl
@[simp] theorem rvrbSample_cmds (x : F32) (s : State) : ((rvrbSample x s).1).cmds = s.cmds := rfl
@[simp] theorem rvrbSample_resp (x : F32) (s : State) : ((rvrbSample x s).1).resp = s.resp := rfl
@[simp] theorem rvrbSample_busy (x : F32) (s : State) : ((rvrbSample x s).1).busy = s.busy := rfl
@[simp] theorem rvrbSample_draws (x : F32) (s : State) : ((rvrbSample x s).1).draws = s.draws + 43 := rfl

theorem distSample_state (x : F32) (s : State) :
    (distSample x s).1 = { s with draws := s.draws + if s.dist.en then 10 else 0 } := by
  unfold distSample distDraws
  split <;> simp

theorem flngSample_eq_ok {x : F32} {s t : State} {y : F32} :
    flngSample x s = .ok (t, y) ↔ ∃ f w, flngFilter s.draws s.cfg s.flng x = .ok (f, w) ∧
      t = { s with flng := f, draws := s.draws + 11 } ∧ y = enabledOut s.flng.en w x := by
  unfold flngSample flngFilterDraws
  rcases flngFilter s.draws s.cfg s.flng x with why | ⟨f, w⟩
  · simp
  · simp only [Except.ok.injEq, Prod.mk.injEq, eq_comm (a := t), eq_comm (a := y)]
    exact ⟨fun h => ⟨f, w, ⟨rfl, rfl⟩, h⟩, fun ⟨_, _, ⟨rfl, rfl⟩, h⟩ => h⟩

/-- What a sample changes at most: the registers of its unit (`RVRB`: the sections only) and the count of free values
used. Never the streams, the ports, the `PROC` in progress or the configuration (R87). -/
theorem unitSample_frame {u : UnitId} {e : Option F32} {x y : F32} {s t : State}
    (h : unitSample u e x s = .ok (t, y)) :
    (t.cfg = s.cfg ∧ t.in0 = s.in0 ∧ t.in1 = s.in1 ∧ t.out = s.out ∧ t.cmds = s.cmds ∧ t.resp = s.resp ∧
      t.busy = s.busy) ∧
    (u ≠ .sec → t.sec = s.sec) ∧ (u ≠ .shlf → t.shlf = s.shlf) ∧ (u ≠ .wah → t.wah = s.wah) ∧
    (u ≠ .flng → t.flng = s.flng) ∧ t.dist = s.dist ∧ (u ≠ .rvrb → t.rvrb = s.rvrb) ∧
    t.rvrb = { s.rvrb with bank := t.rvrb.bank } := by
  cases u with
  | flng => obtain ⟨f, w, -, rfl, -⟩ := flngSample_eq_ok.1 h; simp
  | dist =>
    simp only [unitSample, Except.ok.injEq] at h
    rw [← show (distSample x s).1 = t from congrArg Prod.fst h, distSample_state]
    simp
  | sec => simp only [unitSample, Except.ok.injEq] at h; simp [← show (secSample x s).1 = t from congrArg Prod.fst h]
  | shlf => simp only [unitSample, Except.ok.injEq] at h; simp [← show (shlfSample x s).1 = t from congrArg Prod.fst h]
  | wah => simp only [unitSample, Except.ok.injEq] at h; simp [← show (wahSample e x s).1 = t from congrArg Prod.fst h]
  | rvrb => simp only [unitSample, Except.ok.injEq] at h; simp [← show (rvrbSample x s).1 = t from congrArg Prod.fst h]

/-- A rebuild replaces the sections and clears `DIRTY`; it changes nothing else (R205). -/
theorem rvrbRebuild_eq_ok {s t : State} :
    rvrbRebuild s = .ok t ↔ ∃ bank, buildBank s.cfg s.rvrb.combMode s.rvrb.apMode s.draws = .ok bank ∧
      t = { s with rvrb := { s.rvrb with bank := bank, dirty := false }, draws := s.draws + 11 } := by
  unfold rvrbRebuild rebuildDraws clearDirty
  cases buildBank s.cfg s.rvrb.combMode s.rvrb.apMode s.draws <;> simp [eq_comm]

end Sys2Proof.Machine
end

