-- ==== Sys2Proof/Laws/Proc.lean ====
section
/-! SUPPORT. The equations of the `PROC` loop (spec/30_encoding.md R87, spec/20_memory.md R67), one per way an iteration
can go, and what making a filter bank gives (spec/45_reverb.md R201, R205). -/

namespace Sys2Proof.Machine

/-! ## The loop -/

/-- All samples are done: the command completes. -/
theorem procLoop_zero (u : UnitId) (sc : Bool) (n : Nat) (s : State) :
    procLoop u sc n 0 s = .next (respondOk n { s with busy := none }) := rfl

/-- `in0` is empty: the command holds. -/
theorem procLoop_empty (u : UnitId) (sc : Bool) (n left : Nat) {s : State} (h : s.in0 = []) :
    procLoop u sc n (left + 1) s = .next { s with busy := some ⟨u, sc, n, left + 1, none⟩ } := by
  simp [procLoop, popIn0_eq_none.2 h]

/-- `in1` is empty: the command holds with the sample popped from `in0`. -/
theorem procLoop_empty_side (u : UnitId) (n left : Nat) {s : State} {x : F32} {xs : List F32} (h : s.in0 = x :: xs)
    (h1 : s.in1 = []) :
    procLoop u true n (left + 1) s =
      .next { s with in0 := xs, busy := some ⟨u, true, n, left + 1, some x⟩ } := by
  simp [procLoop, popIn0, h, popSide, popIn1, h1]

/-- One sample without side-chain. -/
theorem procLoop_cons (u : UnitId) (n left : Nat) {s t : State} {x y : F32} {xs : List F32} (h : s.in0 = x :: xs)
    (hu : unitSample u none x { s with in0 := xs } = .ok (t, y)) :
    procLoop u false n (left + 1) s = procLoop u false n left (pushOut y t) := by
  simp [procLoop, popIn0, h, popSide, hu]

/-- One sample without side-chain that has no meaning. -/
theorem procLoop_cons_error (u : UnitId) (n left : Nat) {s : State} {x : F32} {xs : List F32} {why : NoMeaning}
    (h : s.in0 = x :: xs) (hu : unitSample u none x { s with in0 := xs } = .error why) :
    procLoop u false n (left + 1) s = .fault (faultOf why) := by
  simp [procLoop, popIn0, h, popSide, hu]

/-- One sample with side-chain. -/
theorem procLoop_cons_side (u : UnitId) (n left : Nat) {s t : State} {x e y : F32} {xs es : List F32}
    (h : s.in0 = x :: xs) (h1 : s.in1 = e :: es)
    (hu : unitSample u (some e) x { s with in0 := xs, in1 := es } = .ok (t, y)) :
    procLoop u true n (left + 1) s = procLoop u true n left (pushOut y t) := by
  simp [procLoop, popIn0, h, popSide, popIn1, h1, hu]

/-- One sample with side-chain that has no meaning. -/
theorem procLoop_cons_side_error (u : UnitId) (n left : Nat) {s : State} {x e : F32} {xs es : List F32}
    {why : NoMeaning} (h : s.in0 = x :: xs) (h1 : s.in1 = e :: es)
    (hu : unitSample u (some e) x { s with in0 := xs, in1 := es } = .error why) :
    procLoop u true n (left + 1) s = .fault (faultOf why) := by
  simp [procLoop, popIn0, h, popSide, popIn1, h1, hu]

/-- No unit's sample looks at the streams, the ports or the `PROC` in progress: changing them first changes them in the
result and nothing else. -/
theorem unitSample_streams (u : UnitId) (e : Option F32) (x : F32) (s : State) (a b o : List F32)
    (c : List CommandWord) (r : List ResponseWord) (p : Option Busy) :
    unitSample u e x { s with in0 := a, in1 := b, out := o, cmds := c, resp := r, busy := p } =
      (unitSample u e x s).map fun q =>
        ({ q.1 with in0 := a, in1 := b, out := o, cmds := c, resp := r, busy := p }, q.2) := by
  cases u with
  | flng =>
    simp only [unitSample, flngSample]
    cases flngFilter s.draws s.cfg s.flng x <;> rfl
  | dist =>
    simp only [unitSample, distSample]
    split <;> rfl
  | sec => rfl
  | shlf => rfl
  | wah => rfl
  | rvrb => rfl

/-! ## The filter bank -/

/-- A bank is made of seven sections, each made from its own pair. -/
theorem buildBank_eq_ok {cfg : Cfg} {cm am : Mode} {k : Nat} {b : Bank} (h : buildBank cfg cm am k = .ok b) :
    combSection cfg (combPair k cm cfg.presetComb0) = .ok b.comb0 ∧
    combSection cfg (combPair (k + 2) cm cfg.presetComb1) = .ok b.comb1 ∧
    combSection cfg (combPair (k + 4) cm cfg.presetComb2) = .ok b.comb2 ∧
    combSection cfg (combPair (k + 6) cm cfg.presetComb3) = .ok b.comb3 ∧
    apSection cfg (apPair (k + 8) am cfg.presetAp0) = .ok b.ap0 ∧
    apSection cfg (apPair (k + 9) am cfg.presetAp1) = .ok b.ap1 ∧
    apSection cfg (apPair (k + 10) am cfg.presetAp2) = .ok b.ap2 := by
  unfold buildBank at h
  simp only [bind, Except.bind, pure, Except.pure] at h
  repeat' split at h
  all_goals first
    | cases h; done
    | (cases h; simp_all)

theorem buildBank_ok {cfg : Cfg} {cm am : Mode} {k : Nat} {b : Bank} (h : buildBank cfg cm am k = .ok b) :
    b.Ok cfg.dmax := by
  obtain ⟨h0, h1, h2, h3, h4, h5, h6⟩ := buildBank_eq_ok h
  exact ⟨secOfDelay_ok h0, secOfDelay_ok h1, secOfDelay_ok h2, secOfDelay_ok h3, secOfDelay_ok h4, secOfDelay_ok h5,
    secOfDelay_ok h6⟩

/-- In preset mode no free value is used: the bank is the same from any index. -/
theorem buildBank_preset (cfg : Cfg) (k j : Nat) :
    buildBank cfg .preset .preset k = buildBank cfg .preset .preset j := rfl

end Sys2Proof.Machine
end

