-- ==== Sys2Proof/Tests/Slice0.lean ====
section
/-! SUPPORT. The model's own tests. Expected words and values are those of spec/30_encoding.md and
spec/95_test_vectors.md (the vector's id is in the docstring). The second part, `witness_…`, shows for every statement of
Certificates/Slice0/Obligations.lean that has hypotheses a state and operands that meet them together. -/

namespace Sys2Proof.Tests

open Sys2Proof Sys2Proof.Machine Sys2Proof.Claims

set_option Elab.async false

/-! ## Helpers -/

/-- The outcome is a next state of which `p` holds. -/
def nx (o : Outcome) (p : State → Bool) : Bool :=
  match o with
  | .next s => p s
  | .fault _ => false
  | .refused _ => false

/-- One step on a command word. -/
def run1 (w : CommandWord) (s : State) : Outcome := step (s.withFetchWord 128 w.toNat)

/-- `CFG_T` of spec/95_test_vectors.md section 2.6, with `FLNG_MAX_DELAY` of P3 and `SEC_D` of P1. -/
def cfgT : Cfg :=
  { Config.cfg0 with
    fs := 0x447A0000#32
    shlfInit := ⟨0#32, 0#32, 0x42C80000#32, true⟩
    rvrbInit := ⟨.preset, .preset, 0x3F800000#32, true⟩ }

/-- The sections section 2.6 lists for `CFG_T`. -/
def bankT : Bank :=
  ⟨secNew 2 0#32 one 0xBF000000#32, secNew 3 0#32 one 0xBF000000#32, secNew 4 0#32 one 0xBE800000#32,
   secNew 5 0#32 one 0xBE800000#32, secNew 1 half one half, secNew 2 half one half,
   secNew 3 0x3E800000#32 one 0x3E800000#32⟩

/-- A small state: the reset values of the units under `CFG_T`. -/
def demo : State :=
  { cfg := cfgT, sec := secReset cfgT, shlf := shlfReset cfgT .low, wah := wahReset cfgT, flng := flngReset cfgT 3,
    dist := distReset cfgT .l, rvrb := rvrbReset cfgT bankT, in0 := [], in1 := [], out := [], cmds := [], resp := [],
    busy := none, draws := 0 }

/-! ## Well-formedness: a `count` beyond 32 bits is refused, the largest is not -/

theorem test_wf_procSec : Instr.wf (.procSec 4294967296) = false ∧ Instr.wf (.procSec 4294967295) = true := by decide
theorem test_wf_procShlf : Instr.wf (.procShlf 4294967296) = false ∧ Instr.wf (.procShlf 4294967295) = true := by decide
theorem test_wf_procWah : Instr.wf (.procWah 4294967296 true) = false ∧ Instr.wf (.procWah 4294967295 true) = true := by decide
theorem test_wf_procFlng : Instr.wf (.procFlng 4294967296) = false ∧ Instr.wf (.procFlng 4294967295) = true := by decide
theorem test_wf_procDist : Instr.wf (.procDist 4294967296) = false ∧ Instr.wf (.procDist 4294967295) = true := by decide
theorem test_wf_procRvrb : Instr.wf (.procRvrb 4294967296) = false ∧ Instr.wf (.procRvrb 4294967295) = true := by decide

theorem test_countFits : ¬ countFits 4294967296 ∧ countFits 4294967295 := by decide

/-! ## Decoding: words written out from the tables of spec/30_encoding.md R80 to R83 and vectors E1 to E16 -/

theorem test_decode_procSec : decode 0x01000000_00000000_00000000_00000007#128 = .ok (.procSec 7) ∧ encode (.procSec 7) = 0x01000000_00000000_00000000_00000007#128 := by decide
theorem test_decode_procShlf : decode 0x01010000_00000000_00000000_00000003#128 = .ok (.procShlf 3) ∧ encode (.procShlf 3) = 0x01010000_00000000_00000000_00000003#128 := by decide
theorem test_decode_procWah_sc : decode 0x01020000_00000000_00000001_00000040#128 = .ok (.procWah 64 true) ∧ encode (.procWah 64 true) = 0x01020000_00000000_00000001_00000040#128 := by decide
theorem test_decode_procWah : decode 0x01020000_00000000_00000000_FFFFFFFF#128 = .ok (.procWah 4294967295 false) ∧ encode (.procWah 4294967295 false) = 0x01020000_00000000_00000000_FFFFFFFF#128 := by decide
theorem test_decode_procFlng : decode 0x01030000_00000000_00000000_00000005#128 = .ok (.procFlng 5) ∧ encode (.procFlng 5) = 0x01030000_00000000_00000000_00000005#128 := by decide
theorem test_decode_procDist : decode 0x01040000_00000000_00000000_00000004#128 = .ok (.procDist 4) ∧ encode (.procDist 4) = 0x01040000_00000000_00000000_00000004#128 := by decide
theorem test_decode_procRvrb : decode 0x01050000_00000000_00000000_00000008#128 = .ok (.procRvrb 8) ∧ encode (.procRvrb 8) = 0x01050000_00000000_00000000_00000008#128 := by decide
theorem test_decode_setEnabledShlf : decode 0x02010000_00000000_00000000_00000001#128 = .ok (.setEnabledShlf true) ∧ encode (.setEnabledShlf true) = 0x02010000_00000000_00000000_00000001#128 := by decide
theorem test_decode_setEnabledWah : decode 0x02020000_00000000_00000000_00000000#128 = .ok (.setEnabledWah false) ∧ encode (.setEnabledWah false) = 0x02020000_00000000_00000000_00000000#128 := by decide
theorem test_decode_setEnabledFlng : decode 0x02030000_00000000_00000000_00000001#128 = .ok (.setEnabledFlng true) ∧ encode (.setEnabledFlng true) = 0x02030000_00000000_00000000_00000001#128 := by decide
theorem test_decode_setEnabledDist : decode 0x02040000_00000000_00000000_00000000#128 = .ok (.setEnabledDist false) ∧ encode (.setEnabledDist false) = 0x02040000_00000000_00000000_00000000#128 := by decide
theorem test_decode_setEnabledRvrb : decode 0x02050000_00000000_00000000_00000001#128 = .ok (.setEnabledRvrb true) ∧ encode (.setEnabledRvrb true) = 0x02050000_00000000_00000000_00000001#128 := by decide
theorem test_decode_setWetGammaFlng : decode 0x03030000_00000000_00000000_3F000000#128 = .ok (.setWetGammaFlng 0x3F000000#32) ∧ encode (.setWetGammaFlng 0x3F000000#32) = 0x03030000_00000000_00000000_3F000000#128 := by decide
theorem test_decode_setWetGammaDist : decode 0x03040000_00000000_00000000_3F800000#128 = .ok (.setWetGammaDist 0x3F800000#32) ∧ encode (.setWetGammaDist 0x3F800000#32) = 0x03040000_00000000_00000000_3F800000#128 := by decide
theorem test_decode_setWetGammaRvrb : decode 0x03050000_00000000_00000000_7FC00001#128 = .ok (.setWetGammaRvrb 0x7FC00001#32) ∧ encode (.setWetGammaRvrb 0x7FC00001#32) = 0x03050000_00000000_00000000_7FC00001#128 := by decide
theorem test_decode_setLfoFreqWah : decode 0x04020000_00000000_00000000_3F800000#128 = .ok (.setLfoFreqWah 0x3F800000#32) ∧ encode (.setLfoFreqWah 0x3F800000#32) = 0x04020000_00000000_00000000_3F800000#128 := by decide
theorem test_decode_setLfoFreqFlng : decode 0x04030000_00000000_00000000_80000000#128 = .ok (.setLfoFreqFlng 0x80000000#32) ∧ encode (.setLfoFreqFlng 0x80000000#32) = 0x04030000_00000000_00000000_80000000#128 := by decide
theorem test_decode_setTapsSec : decode 0x10000000_3F000000_3F800000_00000000#128 = .ok (.setTapsSec 0#32 0x3F800000#32 0x3F000000#32) ∧ encode (.setTapsSec 0#32 0x3F800000#32 0x3F000000#32) = 0x10000000_3F000000_3F800000_00000000#128 := by decide
theorem test_decode_resetHistSec : decode 0x11000000_00000000_00000000_00000000#128 = .ok (.resetHistSec) ∧ encode (.resetHistSec) = 0x11000000_00000000_00000000_00000000#128 := by decide
theorem test_decode_setTypeShlf : decode 0x20010000_00000000_00000000_00000002#128 = .ok (.setTypeShlf 2#32) ∧ encode (.setTypeShlf 2#32) = 0x20010000_00000000_00000000_00000002#128 := by decide
theorem test_decode_setGainShlf : decode 0x21010000_00000000_00000000_C0C00000#128 = .ok (.setGainShlf 0xC0C00000#32) ∧ encode (.setGainShlf 0xC0C00000#32) = 0x21010000_00000000_00000000_C0C00000#128 := by decide
theorem test_decode_setCutoffShlf : decode 0x22010000_00000000_00000000_46BB8000#128 = .ok (.setCutoffShlf 0x46BB8000#32) ∧ encode (.setCutoffShlf 0x46BB8000#32) = 0x22010000_00000000_00000000_46BB8000#128 := by decide
theorem test_decode_setCutoffMinWah : decode 0x30020000_00000000_00000000_43C80000#128 = .ok (.setCutoffMinWah 0x43C80000#32) ∧ encode (.setCutoffMinWah 0x43C80000#32) = 0x30020000_00000000_00000000_43C80000#128 := by decide
theorem test_decode_setCutoffMaxWah : decode 0x31020000_00000000_00000000_44FA0000#128 = .ok (.setCutoffMaxWah 0x44FA0000#32) ∧ encode (.setCutoffMaxWah 0x44FA0000#32) = 0x31020000_00000000_00000000_44FA0000#128 := by decide
theorem test_decode_setDampWah : decode 0x32020000_00000000_00000000_3FB504F3#128 = .ok (.setDampWah 0x3FB504F3#32) ∧ encode (.setDampWah 0x3FB504F3#32) = 0x32020000_00000000_00000000_3FB504F3#128 := by decide
theorem test_decode_setDistFuncDist : decode 0x50040000_00000000_00000000_00000051#128 = .ok (.setDistFuncDist 0x51#32) ∧ encode (.setDistFuncDist 0x51#32) = 0x50040000_00000000_00000000_00000051#128 := by decide
theorem test_decode_setBoostDist : decode 0x51040000_00000000_00000000_40000000#128 = .ok (.setBoostDist 0x40000000#32) ∧ encode (.setBoostDist 0x40000000#32) = 0x51040000_00000000_00000000_40000000#128 := by decide
theorem test_decode_setCombModeRvrb : decode 0x60050000_00000000_00000000_00000001#128 = .ok (.setCombModeRvrb .random) ∧ encode (.setCombModeRvrb .random) = 0x60050000_00000000_00000000_00000001#128 := by decide
theorem test_decode_setApModeRvrb : decode 0x61050000_00000000_00000000_00000000#128 = .ok (.setApModeRvrb .preset) ∧ encode (.setApModeRvrb .preset) = 0x61050000_00000000_00000000_00000000#128 := by decide

/-- E8, E14: the opcode is looked up first. -/
theorem test_decode_opcode : decode 0x7F010000_00000000_00000000_00000000#128 = .error .opcode ∧
    decode 0x7F09FFFF_00000000_00000000_00000000#128 = .error .opcode := by decide

/-- E9, E13. -/
theorem test_decode_unit : decode 0x10010000_00000000_00000000_00000000#128 = .error .unit ∧
    decode 0x01060000_00000000_00000000_00000001#128 = .error .unit := by decide

/-- E10, E11, E12, E15. -/
theorem test_decode_reserved : decode 0x01010000_00000000_00000001_00000003#128 = .error .reserved ∧
    decode 0x02010000_00000000_00000000_00000002#128 = .error .reserved ∧
    decode 0x01010001_00000000_00000000_00000003#128 = .error .reserved ∧
    decode 0x20010000_00000000_00000001_00000002#128 = .error .reserved := by decide

/-- R69: byte 0 carries `W[7:0]`, byte 15 the opcode; E1 as a transport sends it. -/
theorem test_bytes : bytesOfWord 0x10000000_3F000000_3F800000_00000000#128 =
      [0, 0, 0, 0, 0, 0, 0x80, 0x3F, 0, 0, 0, 0x3F, 0, 0, 0, 0x10] ∧
    wordOfBytes [0, 0, 0, 0, 0, 0, 0x80, 0x3F, 0, 0, 0, 0x3F, 0, 0, 0, 0x10] =
      some 0x10000000_3F000000_3F800000_00000000#128 := by decide +kernel

/-- R69, R70, R85: 1.0 as a sample's four bytes, `OK(7)` and an `INVALID_PARAMETER(3)` as a response's eight; a partial
word is no transaction. -/
theorem test_bytes_sample_response : bytesOfSample 0x3F800000#32 = [0, 0, 0x80, 0x3F] ∧
    sampleOfBytes [0, 0, 0x80, 0x3F] = some 0x3F800000#32 ∧ sampleOfBytes [0, 0, 0x80] = none ∧
    bytesOfResponse 0x00000007_00000000#64 = [0, 0, 0, 0, 7, 0, 0, 0] ∧
    responseOfBytes [1, 3, 0, 0, 0, 0, 0, 0] = some 0x301#64 ∧ responseOfBytes [1, 3, 0, 0] = none := by decide +kernel

/-- The table's bit numbering: bits above `nbits` are zero. -/
theorem test_decodeTableWord :
    decodeTableWord 128 0x01040000_00000000_00000000_00000000 = some (.procDist 0) ∧
    decodeTableWord 128 0x7F040000_00000000_00000000_00000000 = none := by decide

/-! ## Arithmetic (R11, R14, R16) -/

/-- V3's product, V45's 0.3 by 0.1 mix, V51's two quotients, a subnormal sum, overflow and ties away from zero. -/
theorem test_arithmetic :
    fmul 0 0x3F333333#32 0x3F333333#32 = 0x3EFAE147#32 ∧
    mix binary32 0 0x3E99999A#32 0x3F333333#32 0x3DCCCCCD#32 = 0x3F28F5C2#32 ∧
    fdiv 0 one 0x3FC00000#32 = 0x3F2AAAAB#32 ∧ fdiv 0 half 0x3FA00000#32 = 0x3ECCCCCD#32 ∧
    fadd 0 0x007FFFFF#32 0x00000001#32 = 0x00800000#32 ∧
    fadd 0 0x7F7FFFFF#32 0x7F7FFFFF#32 = 0x7F800000#32 ∧
    roundI 0x3F000000#32 = some 1 ∧ roundI 0xC0200000#32 = some (-3) := by decide +kernel

/-- R11: an exact zero sum is `+0`, but for two negative zeros; `-0` equals `+0`; `fneg` flips a zero's sign. -/
theorem test_zeros : fadd 0 0x80000000#32 0x80000000#32 = 0x80000000#32 ∧ fsub 0 one one = 0#32 ∧
    feq 0x80000000#32 0#32 = true ∧ flt 0x80000000#32 0#32 = false ∧ fneg 0#32 = 0x80000000#32 := by decide +kernel

/-! ## SEC -/

/-- P1, command 2 (V1). -/
theorem test_procSec :
    nx (run1 0x01000000_00000000_00000000_00000007#128
      { demo with sec := secNew 3 0#32 one half, in0 := [0x3F800000#32, 0x00000000#32, 0x00000000#32, 0x00000000#32, 0x00000000#32, 0x00000000#32, 0x00000000#32] })
      (fun s => s.out == [0x00000000#32, 0x00000000#32, 0x00000000#32, 0x3F800000#32, 0x00000000#32, 0x00000000#32, 0x3F000000#32] && s.resp == [0x7_00000000#64]
        && s.sec.xh == [0x00000000#32, 0x00000000#32, 0x00000000#32] && s.sec.yh == [0x00000000#32, 0x00000000#32, 0x3F000000#32] && s.in0 == []) = true := by
  decide +kernel

/-- V4. -/
theorem test_procSec_three_taps :
    nx (execProcSec 5 { demo with sec := secNew 2 half 0xBE800000#32 half, in0 := [0x3F800000#32, 0x40000000#32, 0x40400000#32, 0x40800000#32, 0x40A00000#32] })
      (fun s => s.out == [0x3F000000#32, 0x3F800000#32, 0x3FC00000#32, 0x40000000#32, 0x40200000#32] && s.sec.xh == [0x40800000#32, 0x40A00000#32]
        && s.sec.yh == [0x40000000#32, 0x40200000#32]) = true := by
  decide +kernel

/-- E1. -/
theorem test_setTapsSec :
    nx (run1 0x10000000_3F000000_3F800000_00000000#128 demo)
      (fun s => s.sec == { secNew 3 0#32 one half with d := 3 } && s.resp == [0#64]) = true := by
  decide +kernel

/-- E3 after V4: both histories zero, the taps unchanged (R105). -/
theorem test_resetHistSec :
    nx (run1 0x11000000_00000000_00000000_00000000#128
      { demo with sec := { secNew 2 half one half with xh := [0x40800000#32, 0x40A00000#32], yh := [0x40000000#32, 0x40200000#32] } })
      (fun s => s.sec == secNew 2 half one half && s.resp == [0#64]) = true := by
  decide +kernel

/-! ## SHLF -/

/-- `SHLF` with the coefficients of V20. -/
def shlfV20 (en : Bool) : Shlf :=
  ⟨.low, 0#32, 0x42C80000#32, en, ⟨half, 0x3E800000#32, 0x3E000000#32, 0xBF000000#32, 0x3E800000#32⟩, 0#32, 0#32⟩

/-- V20, first sample. -/
theorem test_procShlf :
    nx (run1 0x01010000_00000000_00000000_00000001#128 { demo with shlf := shlfV20 true, in0 := [one] })
      (fun s => s.out == [half] && s.shlf.z1 == half && s.shlf.z2 == 0#32 && s.resp == [0x1_00000000#64]) = true := by
  decide +kernel

/-- V23: disabled, the recursion still runs (the `(Z1, Z2)` of V20). -/
theorem test_procShlf_disabled :
    nx (execProcShlf 4 { demo with shlf := shlfV20 false, in0 := [0x3F800000#32, 0x00000000#32, 0x00000000#32, 0x00000000#32] })
      (fun s => s.out == [0x3F800000#32, 0x00000000#32, 0x00000000#32, 0x00000000#32] && s.shlf.z1 == 0xBD800000#32 && s.shlf.z2 == 0#32) = true := by
  decide +kernel

/-- E6: an unknown type is rejected. -/
theorem test_setTypeShlf :
    nx (run1 0x20010000_00000000_00000000_00000002#128 { demo with shlf := shlfV20 true })
      (fun s => s.shlf == shlfV20 true && s.resp == [0x201#64]) = true := by
  decide +kernel

/-- R129: code 1 is the high-shelf. -/
theorem test_setTypeShlf_high :
    nx (execSetTypeShlf 1#32 demo) (fun s => s.shlf.shelfType == .high && s.resp == [0#64]) = true := by
  decide +kernel

/-- R130: -6.0 dB; the delay registers are not touched. -/
theorem test_setGainShlf :
    nx (run1 0x21010000_00000000_00000000_C0C00000#128 demo)
      (fun s => s.shlf.gainDb == 0xC0C00000#32 && s.shlf.z1 == 0#32 && s.resp == [0#64]) = true := by
  decide +kernel

/-- V24 and E7 at `FS = 48000.0`. -/
theorem test_setCutoffShlf :
    nx (run1 0x22010000_00000000_00000000_46BB8000#128 { demo with cfg := { cfgT with fs := 0x473B8000#32 } })
      (fun s => s.shlf.cutoff == 0x42C80000#32 && s.resp == [0x301#64]) = true := by
  decide +kernel

/-- V24, the whole column. -/
theorem test_cutoffValid :
    [0x447A0000#32, 0x46BB8000#32, 0x46BB7FFF#32, 0#32, 0x80000000#32, 1#32, 0xBF800000#32, 0x7F800000#32,
      0x7FC00000#32].map (cutoffValid Config.cfg0) =
    [true, false, true, false, false, true, false, false, false] := by
  decide +kernel

theorem test_setEnabledShlf :
    nx (run1 0x02010000_00000000_00000000_00000000#128 demo) (fun s => !s.shlf.en && s.resp == [0#64]) = true := by
  decide +kernel

/-! ## WAH -/

/-- V30, sample 1: the low-pass update uses the new band-pass. -/
theorem test_svfStep :
    (svfStep binary32 0 { demo.wah with yHp := one, yBp := half, yLp := 0x3E800000#32 } 0#32 half half).2 = 0x3E800000#32 ∧
    (svfStep binary32 0 { demo.wah with yHp := one, yBp := half, yLp := 0x3E800000#32 } 0#32 half half).1.yHp = 0xBF000000#32 ∧
    (svfStep binary32 0 { demo.wah with yHp := one, yBp := half, yLp := 0x3E800000#32 } 0#32 half half).1.yLp = 0x3EC00000#32 := by
  decide +kernel

/-- V32 and V34: `Q` of `DAMP = 1.0`, `fc` at `env = 0.5`. -/
theorem test_wahCoeffs : (wahCoeffs binary32 0 0x473B8000#32 demo.wah 0#32).2 = 0x3F3504F3#32 ∧
    wahCutoff binary32 0 demo.wah half = 0x44960000#32 := by
  decide +kernel

/-- `WAH` of P6: `FS = 4.0`, both cutoffs zero, `DAMP = SQRT2_32`. -/
def wahP6 (en : Bool) (phase : F32) : State :=
  { demo with
    cfg := { cfgT with fs := 0x40800000#32 }
    wah := ⟨0#32, 0#32, sqrt2_32, one, en, 0#32, 0#32, 0x3F400000#32, phase⟩ }

/-- P6, command 7: the envelope from `in1`, the phase frozen, the output bypassed. -/
theorem test_procWah_sideChain :
    nx (run1 0x01020000_00000000_00000001_00000002#128
      { wahP6 false 0x40490FDB#32 with in0 := [0x3E000000#32, 0xBEC00000#32], in1 := [0x00000000#32, 0x3F800000#32] })
      (fun s => s.out == [0x3E000000#32, 0xBEC00000#32] && s.in0 == [] && s.in1 == [] && s.wah.yHp == 0xBEC00000#32
        && s.wah.yBp == 0#32 && s.wah.yLp == 0#32 && s.wah.phase == 0x40490FDB#32
        && s.resp == [0x2_00000000#64]) = true := by
  decide +kernel

/-- V33, sample 0, on the state of P6 enabled: `in1` is not touched, the phase advances. -/
theorem test_procWah :
    nx (run1 0x01020000_00000000_00000000_00000001#128 { wahP6 true 0#32 with in0 := [one], in1 := [one] })
      (fun s => s.out == [0#32] && s.in1 == [one] && s.wah.phase == 0x3FC90FDB#32) = true := by
  decide +kernel

/-- V33: the strict comparison of the phase with the period at samples 3 and 4. -/
theorem test_lfoAdvance : lfoAdvance binary32 0 0x40800000#32 one 0x4096CBE4#32 = 0x40C90FDB#32 ∧
    lfoAdvance binary32 0 0x40800000#32 one 0x40C90FDB#32 = 0#32 := by
  decide +kernel

theorem test_setCutoffMinWah :
    nx (run1 0x30020000_00000000_00000000_00000000#128 demo)
      (fun s => s.wah == { demo.wah with cutoffMin := 0#32 } && s.resp == [0#64]) = true := by
  decide +kernel

theorem test_setCutoffMaxWah :
    nx (run1 0x31020000_00000000_00000000_00000000#128 demo)
      (fun s => s.wah == { demo.wah with cutoffMax := 0#32 } && s.resp == [0#64]) = true := by
  decide +kernel

theorem test_setDampWah :
    nx (run1 0x32020000_00000000_00000000_3FB504F3#128 demo)
      (fun s => s.wah == { demo.wah with damp := sqrt2_32 } && s.resp == [0#64]) = true := by
  decide +kernel

/-- R149: the phase is not reset. -/
theorem test_setLfoFreqWah :
    nx (run1 0x04020000_00000000_00000000_40000000#128 (wahP6 true 0x3FC90FDB#32))
      (fun s => s.wah.lfoFreq == two && s.wah.phase == 0x3FC90FDB#32 && s.resp == [0#64]) = true := by
  decide +kernel

theorem test_setEnabledWah :
    nx (run1 0x02020000_00000000_00000000_00000000#128 demo) (fun s => !s.wah.en && s.resp == [0#64]) = true := by
  decide +kernel

/-! ## FLNG -/

/-- `FLNG` of P3 after its first command. -/
def flngP3 (en : Bool) (o : TapOrigin) (gamma : F32) (xs : List F32) : State :=
  { demo with
    cfg := { cfgT with tapOrigin := o }
    flng := { demo.flng with lfoFreq := 0#32, wetGamma := gamma, en := en }
    in0 := xs }

/-- P3, command 3 (V41), with the phase of V40. -/
theorem test_procFlng :
    nx (run1 0x01030000_00000000_00000000_00000005#128 (flngP3 true .oldest half [0x3F800000#32, 0x40000000#32, 0x40400000#32, 0x40800000#32, 0x40A00000#32]))
      (fun s => s.out == [0x3F000000#32, 0x3F800000#32, 0x3FC00000#32, 0x40200000#32, 0x40600000#32] && s.flng.buf == [0x40400000#32, 0x40800000#32, 0x40A00000#32]
        && s.flng.phase == 0x3D00ADFD#32 && s.resp == [0x5_00000000#64]) = true := by
  decide +kernel

/-- V46 and V47: the other tap origin; disabled, the delay line still runs. -/
theorem test_procFlng_newest_and_disabled :
    nx (execProcFlng 5 (flngP3 true .newest one [0x3F800000#32, 0x40000000#32, 0x40400000#32, 0x40800000#32, 0x40A00000#32]))
      (fun s => s.out == [0x00000000#32, 0x3F800000#32, 0x40000000#32, 0x40400000#32, 0x40800000#32] && s.flng.buf == [0x40400000#32, 0x40800000#32, 0x40A00000#32]) = true ∧
    nx (execProcFlng 5 (flngP3 false .oldest one [0x3F800000#32, 0x40000000#32, 0x40400000#32, 0x40800000#32, 0x40A00000#32]))
      (fun s => s.out == [0x3F800000#32, 0x40000000#32, 0x40400000#32, 0x40800000#32, 0x40A00000#32] && s.flng.buf == [0x40400000#32, 0x40800000#32, 0x40A00000#32]) = true := by
  decide +kernel

/-- V44: at sample 2, whatever `v` of 0.5 gives index 2 of 5; `CAP = 1` gives index 0. -/
theorem test_flngIndex : flngIndex binary32 0 5 half = some 2 ∧ flngIndex binary32 0 1 one = some 0 ∧
    flngIndex binary32 0 5 0x3F5A827A#32 = some 3 := by
  decide +kernel

theorem test_setLfoFreqFlng :
    nx (run1 0x04030000_00000000_00000000_00000000#128 demo)
      (fun s => s.flng == { demo.flng with lfoFreq := 0#32 } && s.resp == [0#64]) = true := by
  decide +kernel

theorem test_setWetGammaFlng :
    nx (run1 0x03030000_00000000_00000000_3F000000#128 demo)
      (fun s => s.flng == { demo.flng with wetGamma := half } && s.resp == [0#64]) = true := by
  decide +kernel

theorem test_setEnabledFlng :
    nx (run1 0x02030000_00000000_00000000_00000000#128 demo) (fun s => !s.flng.en && s.resp == [0#64]) = true := by
  decide +kernel

/-! ## DIST -/

/-- P2, command 4 (V50). -/
theorem test_procDist :
    nx (run1 0x01040000_00000000_00000000_00000004#128
      { demo with dist := ⟨.q, two, one, true⟩, in0 := [0x3E800000#32, 0xBE800000#32, 0x3F400000#32, 0x00000000#32] })
      (fun s => s.out == [0x3F400000#32, 0xBF400000#32, 0x3F800000#32, 0x00000000#32] && s.resp == [0x4_00000000#64]) = true := by
  decide +kernel

/-- P2, command 7: the bypassed NaN keeps its payload. -/
theorem test_procDist_disabled :
    nx (execProcDist 2 { demo with dist := ⟨.q, two, one, false⟩, in0 := [0x3F400000#32, 0x7FC00001#32] })
      (fun s => s.out == [0x3F400000#32, 0x7FC00001#32]) = true := by
  decide +kernel

/-- V51 (`I`), V53, V57 (negative boost), V52 (`BOOST = +0.0`). -/
theorem test_shape : shape binary32 0 ⟨.i, one, one, true⟩ 0xBF000000#32 = 0xBF2AAAAB#32 ∧
    shape binary32 0 ⟨.e, 0x40800000#32, one, true⟩ 0xBF000000#32 = minusOne ∧
    shape binary32 0 ⟨.q, minusOne, one, true⟩ half = 0xBFA00000#32 ∧
    shape binary32 0 ⟨.s, 0#32, one, true⟩ 0xBF333333#32 = negZero := by
  decide +kernel

/-- E5 and E4. -/
theorem test_setDistFuncDist :
    nx (run1 0x50040000_00000000_00000000_00000058#128 demo)
      (fun s => s.dist == demo.dist && s.resp == [0x101#64]) = true ∧
    nx (run1 0x50040000_00000000_00000000_00000051#128 demo)
      (fun s => s.dist.func == .q && s.resp == [0#64]) = true := by
  decide +kernel

/-- V58. -/
theorem test_curveOf : [0x4C#32, 0x51#32, 0x45#32, 0x49#32, 0x53#32, 0x58#32, 0x6C#32, 0#32, 0x14C#32].map curveOf =
    [some .l, some .q, some .e, some .i, some .s, none, none, none, none] := by
  decide

theorem test_setBoostDist :
    nx (run1 0x51040000_00000000_00000000_40000000#128 demo)
      (fun s => s.dist == { demo.dist with boost := two } && s.resp == [0#64]) = true := by
  decide +kernel

theorem test_setWetGammaDist :
    nx (run1 0x03040000_00000000_00000000_3F000000#128 demo)
      (fun s => s.dist == { demo.dist with wetGamma := half } && s.resp == [0#64]) = true := by
  decide +kernel

theorem test_setEnabledDist :
    nx (run1 0x02040000_00000000_00000000_00000000#128 demo) (fun s => !s.dist.en && s.resp == [0#64]) = true := by
  decide +kernel

/-! ## RVRB -/

/-- V60, samples 0 to 5. -/
theorem test_procRvrb :
    nx (run1 0x01050000_00000000_00000000_00000006#128 { demo with in0 := [0x3F800000#32, 0x00000000#32, 0x00000000#32, 0x00000000#32, 0x00000000#32, 0x00000000#32] })
      (fun s => s.out == [0x00000000#32, 0x00000000#32, 0x3D800000#32, 0x3E600000#32, 0x3ED80000#32, 0x3F890000#32] && s.resp == [0x6_00000000#64]) = true := by
  decide +kernel

/-- P4, command 4 with `n = 0`: the pending rebuild comes first, all seven sections are those of `CFG_T`. -/
theorem test_procRvrb_rebuild :
    nx (execProcRvrb 0 { demo with
        rvrb := { demo.rvrb with dirty := true, bank := { bankT with comb0 := secNew 7 one one one } } })
      (fun s => s.rvrb == demo.rvrb && s.resp == [0#64]) = true := by
  decide +kernel

/-- P4, command 3: `DIRTY` is set also when the mode is the old one; the sections are not touched. -/
theorem test_setCombModeRvrb :
    nx (run1 0x60050000_00000000_00000000_00000000#128 demo)
      (fun s => s.rvrb == { demo.rvrb with dirty := true } && s.resp == [0#64]) = true := by
  decide +kernel

theorem test_setApModeRvrb :
    nx (run1 0x61050000_00000000_00000000_00000001#128 demo)
      (fun s => s.rvrb == { demo.rvrb with apMode := .random, dirty := true } && s.resp == [0#64]) = true := by
  decide +kernel

/-- P4, command 1: not structural. -/
theorem test_setWetGammaRvrb :
    nx (run1 0x03050000_00000000_00000000_3F000000#128 demo)
      (fun s => s.rvrb == { demo.rvrb with wetGamma := half } && s.resp == [0#64]) = true := by
  decide +kernel

theorem test_setEnabledRvrb :
    nx (run1 0x02050000_00000000_00000000_00000000#128 demo)
      (fun s => s.rvrb == { demo.rvrb with en := false } && s.resp == [0#64]) = true := by
  decide +kernel

/-- V64: whatever is drawn, a comb of the random mode at 48 kHz has between 720 and 1440 taps. -/
theorem test_random_comb_delay (k : Nat) :
    ∃ d, delayTaps Config.cfg0 (combPair k .random ⟨one, one⟩).delay = some d ∧ 720 ≤ d ∧ d ≤ 1440 :=
  delayTaps_between rfl (by decide) (by decide) (by decide) (by decide) (by decide)
    (draw_within (k + 1) (lo := c0_015) (hi := c0_030) (by decide)) (by decide +kernel) (by decide +kernel)

/-- V64: and an allpass between 5 and 485. -/
theorem test_random_ap_delay (k : Nat) :
    ∃ d, delayTaps Config.cfg0 (apPair k .random ⟨one, one⟩).delay = some d ∧ 5 ≤ d ∧ d ≤ 485 :=
  delayTaps_between rfl (by decide) (by decide) (by decide) (by decide) (by decide)
    (draw_within k (lo := c0_0001) (hi := c0_0101) (by decide)) (by decide +kernel) (by decide +kernel)

/-! ## Holding (R67, R145) -/

/-- `PROC.WAH 2, sc` with two samples on `in0` and one on `in1`: one is done, the second waits, nothing is answered. -/
theorem test_hold :
    nx (run1 0x01020000_00000000_00000001_00000002#128
      { wahP6 false 0#32 with in0 := [0x3E000000#32, 0xBEC00000#32], in1 := [0x00000000#32] })
      (fun s => s.out == [0x3E000000#32] && s.in0 == [] && s.resp == []
        && s.busy == some ⟨.wah, true, 2, 1, some 0xBEC00000#32⟩) = true := by
  decide +kernel

/-- And goes on when the host supplies the missing sample. -/
theorem test_resume :
    nx (step { wahP6 false 0#32 with in1 := [0x3F800000#32], busy := some ⟨.wah, true, 2, 1, some 0xBEC00000#32⟩ })
      (fun s => s.out == [0xBEC00000#32] && s.in1 == [] && s.resp == [0x2_00000000#64] && s.busy == none) = true := by
  decide +kernel

/-! ## Witnesses: states and operands that meet the hypotheses of the statements

A witness bears the name of its statement, or of what several statements share: `witness_Answered` (every statement about
a step that answers a next state), `witness_Reset` (those about a state that reset yields), `demo_inv` (those about a
sound state alone), `witness_ProcSamples` (the `PROC` statements about samples supplied). -/

/-- The states of the witnesses that hold input samples. -/
def fed (s : State) : State := { s with in0 := [one, half], in1 := [half, one] }

theorem demo_inv : demo.Inv where
  cfg := by decide +kernel
  sec := ⟨by decide, by decide, by decide, by decide⟩
  secD := by decide
  shlf := ⟨by decide +kernel, rfl⟩
  flng := ⟨by decide +kernel, by decide, by decide, by decide⟩
  bank := ⟨⟨by decide, by decide, by decide, by decide⟩, ⟨by decide, by decide, by decide, by decide⟩,
    ⟨by decide, by decide, by decide, by decide⟩, ⟨by decide, by decide, by decide, by decide⟩,
    ⟨by decide, by decide, by decide, by decide⟩, ⟨by decide, by decide, by decide, by decide⟩,
    ⟨by decide, by decide, by decide, by decide⟩⟩
  busy := fun _ h => nomatch h

/-- The invariant does not look at the streams, the command port, the response port or `DIRTY` of an idle block. -/
theorem demo_inv_with (a b o : List F32) (c : List CommandWord) (r : List ResponseWord) (d : Bool) :
    State.Inv { demo with in0 := a, in1 := b, out := o, cmds := c, resp := r, rvrb := { demo.rvrb with dirty := d } } :=
  { cfg := demo_inv.cfg, sec := demo_inv.sec, secD := demo_inv.secD, shlf := demo_inv.shlf, flng := demo_inv.flng,
    bank := demo_inv.bank, busy := fun _ h => nomatch h }

/-- A `next` outcome is some next state. -/
theorem exists_of_nx {o : Outcome} {p : State → Bool} (h : nx o p = true) : ∃ t, o = .next t ∧ p t = true := by
  cases o with
  | next t => exact ⟨t, rfl, h⟩
  | fault r => cases h
  | refused r => cases h

theorem witness_DecodeEncode : Instr.wf (.procWah 4294967295 true) = true := by decide

theorem witness_EncodeDecode :
    decode 0x01020000_00000000_00000001_00000040#128 = .ok (.procWah 64 true) := by decide

theorem witness_TableRows : ∃ r ∈ opcodeTable, r.accepts 0x02050000_00000000_00000000_00000001#128 = true ∧
    decode 0x02050000_00000000_00000000_00000001#128 = .ok (.setEnabledRvrb true) ∧
    opcode (.setEnabledRvrb true) = opcField r.pattern := by decide

theorem witness_StepRuns : ({ demo with cmds := [0x11000000_00000000_00000000_00000000#128] } : State).busy = none ∧
    decode 0x11000000_00000000_00000000_00000000#128 = .ok .resetHistSec := ⟨rfl, by decide⟩

/-- One word for each of the three clauses (E8, E9, E10). -/
theorem witness_StepRejects : demo.busy = none ∧
    decode 0x7F010000_00000000_00000000_00000000#128 = .error .opcode ∧
    decode 0x10010000_00000000_00000000_00000000#128 = .error .unit ∧
    decode 0x01010000_00000000_00000001_00000003#128 = .error .reserved := ⟨rfl, by decide⟩

/-- A block that holds on `in0`, and one that holds on `in1`. -/
def heldOn0 : State := { demo with busy := some ⟨.sec, false, 3, 1, none⟩ }
def heldOn1 : State := { demo with busy := some ⟨.wah, true, 2, 1, some one⟩ }

theorem witness_BlockWaits : (demo.busy = none ∧ demo.cmds = []) ∧
    (∃ p, heldOn0.busy = some p ∧ 0 < p.left ∧ p.x = none ∧ heldOn0.in0 = []) ∧
    (∃ p x, heldOn1.busy = some p ∧ 0 < p.left ∧ p.sc = true ∧ p.x = some x ∧ heldOn1.in1 = []) :=
  ⟨⟨rfl, rfl⟩, ⟨_, rfl, by decide, rfl, rfl⟩, ⟨_, _, rfl, by decide, rfl, rfl, rfl⟩⟩

/-- A step on a command and a step of a block that holds: both are next states. -/
theorem witness_Answered :
    (∃ t, step { fed demo with cmds := [0x01000000_00000000_00000000_00000002#128] } = .next t) ∧
    (∃ t, step { heldOn0 with in0 := [one] } = .next t) :=
  ⟨(exists_of_nx (p := fun _ => true) (by decide +kernel)).imp fun _ h => h.1,
   (exists_of_nx (p := fun _ => true) (by decide +kernel)).imp fun _ h => h.1⟩

theorem witness_ProcHolds_goes_on :
    started .wah { fed demo with in1 := [half] } = .ok { fed demo with in1 := [half] } ∧
    available true { fed demo with in1 := [half] } < 2 ∧
    ∃ t ys, runSamples .wah (samples true 1 (fed demo)) { fed demo with in1 := [half] } = .ok (t, ys) :=
  ⟨rfl, by decide, _, _, rfl⟩

/-- A NaN rate makes the Flanger's `round_i` fail. -/
def nanRate : State := { fed demo with flng := { demo.flng with lfoFreq := 0x7FC00000#32 } }

theorem nanRate_sample (x : F32) : flngSample x nanRate = .error .round := by
  have h0 : isNaN (lfoAngle binary32 0 posZero 0x7FC00000#32) = true := by
    show isNaN (fmul 0 posZero 0x7FC00000#32) = true
    rw [fmul_nan 0 (.inr (by decide))]
    exact isNaN_quietNaN _
  have h1 := cos32_nan .binary32 h0
  have h2 : isNaN (flngLfoValue binary32 0 nanRate.flng) = true := by
    show isNaN (fsub 2 half (fmul 1 half (cos32 .binary32 (lfoAngle binary32 0 posZero 0x7FC00000#32)))) = true
    rw [fmul_nan _ (.inr h1), fsub_nan _ (.inr (isNaN_quietNaN _))]
    exact isNaN_quietNaN _
  have h3 : flngIndex binary32 6 3 (flngLfoValue binary32 0 nanRate.flng) = none := by
    unfold flngIndex roundI
    rw [binary32_mul, fmul_nan _ (.inl h2), if_neg]
    rw [isFinite_of_isNaN (isNaN_quietNaN _)]
    decide
  have h4 : flngFilter 0 nanRate.cfg nanRate.flng x = .error .round := by
    refine flngFilter_of_tap_error x ?_
    rw [show flngIndex (numOf nanRate.cfg) (0 + 6) nanRate.flng.cap
      (flngLfoNext (numOf nanRate.cfg) 0 nanRate.cfg.fs nanRate.flng).2 = none from h3]
    rfl
  unfold flngSample
  rw [show flngFilter nanRate.draws nanRate.cfg nanRate.flng x = .error .round from h4]

/-- R163, R166: at an infinite rate even an index inside the buffer has no meaning; at the largest finite one it has. -/
theorem test_flngTap : flngTap .oldest [one, half] 0x7F800000#32 (some 1) = .error .tapIndex ∧
    flngTap .oldest [one, half] 0x7F7FFFFF#32 (some 1) = .ok half ∧
    flngTap .newest [one, half] one (some 2) = .error .tapIndex := by decide +kernel

/-- A phase that is not zero at an infinite rate. -/
def infRate : State := { fed demo with flng := { demo.flng with lfoFreq := 0x7F800000#32, phase := half } }

/-- R166: an infinite rate faults the next sample also where the phase is not zero. -/
theorem test_infinite_rate : ∃ why, flngFilter 0 infRate.cfg infRate.flng one = .error why := by
  rcases flngTap_of_not_finite (freq := infRate.flng.lfoFreq) (by decide) with ht | ht
  · exact ⟨_, flngFilter_of_tap_error one ht⟩
  · exact ⟨_, flngFilter_of_tap_error one ht⟩

/-- R126, R131: a NaN, an infinite and a zero cutoff are rejected in every numerics. -/
theorem test_cutoffValid_other (id : Nat) : cutoffValid { cfgT with num := .other id } 0x7FC00000#32 = false ∧
    cutoffValid { cfgT with num := .other id } 0x7F800000#32 = false ∧
    cutoffValid { cfgT with num := .other id } 0#32 = false ∧
    cutoffValid { cfgT with num := .other id } 0x80000000#32 = false :=
  ⟨rfl, posInf_flt _, rfl, rfl⟩

/-- R14: another numerics is another configuration; the rules then use its operations. -/
theorem test_other_numerics (x : F32) :
    (secSample x { demo with cfg := { cfgT with num := .other 1 } }).2 =
      nanDrawn 4 (Config.otherAdd 1
        (nanDrawn 2 (Config.otherAdd 1 (nanDrawn 0 (Config.otherMul 1 posZero posZero))
          (nanDrawn 1 (Config.otherMul 1 posZero x)))) (nanDrawn 3 (Config.otherMul 1 posZero posZero))) := rfl

theorem witness_ProcHolds_faults : started .flng nanRate = .ok nanRate ∧ available false nanRate < 3 ∧
    runSamples .flng (samples false 2 nanRate) nanRate = .error .round := by
  refine ⟨rfl, by decide, ?_⟩
  have h : unitSample .flng none one nanRate = .error .round := nanRate_sample one
  rw [show samples false 2 nanRate = [(none, one), (none, half)] from rfl, runSamples, h]

theorem witness_Supplying : ∃ t, exec (procCommand .wah 2 true) { fed demo with in1 := [half] } = .next t ∧
    t.busy.isSome = true :=
  ⟨_, rfl, rfl⟩

theorem witness_Reset : ∃ s, resetOf cfgT 0 = .ok s := by
  have h : (resetOf cfgT 0).isOk = true := by decide +kernel
  cases hr : resetOf cfgT 0 with
  | ok s => exact ⟨s, rfl⟩
  | error e => rw [hr] at h; cases h

/-- A configuration for each clause: no rate; type 2; cutoff at Nyquist; code 0; and the accepted ones, in both modes. -/
theorem witness_ResetRejects :
    cfgSizesOk { cfgT with fs := 0#32 } = false ∧
    cfgSizesOk cfgT = true ∧ shelfTypeOf 2#32 = none ∧ shelfTypeOf cfgT.shlfInit.shelfType ≠ none ∧
    cutoffValid cfgT 0x43FA0000#32 = false ∧ cutoffValid cfgT cfgT.shlfInit.cutoff = true ∧
    curveOf 0#32 = none ∧ curveOf cfgT.distInit.func ≠ none ∧
    (cfgT.rvrbInit.combMode = .preset ∧ cfgT.rvrbInit.apMode = .preset) ∧
    cfgSizesOk Config.cfg0 = true ∧ cfgRandomOk Config.cfg0 = true := by
  decide +kernel

theorem witness_Invariant : State.Inv { fed demo with cmds := [0x01000000_00000000_00000000_00000002#128] } ∧
    ∃ t, step { fed demo with cmds := [0x01000000_00000000_00000000_00000002#128] } = .next t :=
  ⟨demo_inv_with _ _ _ _ _ _, witness_Answered.1⟩

/-- A sound block that holds. -/
theorem witness_Invariant_held : heldOn1.Inv :=
  { cfg := demo_inv.cfg, sec := demo_inv.sec, secD := demo_inv.secD, shlf := demo_inv.shlf, flng := demo_inv.flng,
    bank := demo_inv.bank,
    busy := fun p h => by
      cases h
      exact ⟨by decide, by decide, by decide, fun _ => rfl, fun _ => rfl, fun h => nomatch h⟩ }

theorem witness_ParameterChanges : Instr.isProc (.setDampWah one) = false ∧ Instr.setDampWah one ≠ .resetHistSec ∧
    (∃ t, exec (.setDampWah one) demo = .next t) ∧ ∃ t, exec .resetHistSec demo = .next t :=
  ⟨rfl, by decide, ⟨_, rfl⟩, ⟨_, rfl⟩⟩

theorem witness_OwnUnit : ∃ t, exec (.procSec 2) (fed demo) = .next t := ⟨_, rfl⟩

theorem witness_Commute : Instr.isProc (.setDampWah one) = false ∧ Instr.isProc (.setDistFuncDist 0#32) = false ∧
    Instr.unit (.setDampWah one) ≠ Instr.unit (.setDistFuncDist 0#32) := by decide

/-- A pending rebuild with a preset whose delay gives no tap spacing. -/
def badPreset : State :=
  { demo with cfg := { cfgT with presetComb1 := ⟨one, 0#32⟩ }, rvrb := { demo.rvrb with dirty := true } }

/-- The two commands that can fault do: a NaN rate, and a preset whose delay gives no tap spacing. -/
theorem witness_Faults : exec (.procFlng 1) nanRate = .fault .fRound ∧
    exec (.procRvrb 0) badPreset = .fault .fSectionD := by
  constructor
  · have h := unitSample_streams .flng none one nanRate [half] nanRate.in1 nanRate.out nanRate.cmds nanRate.resp
      nanRate.busy
    rw [show unitSample .flng none one nanRate = .error .round from nanRate_sample one] at h
    rw [show exec (.procFlng 1) nanRate = procLoop .flng false 1 1 nanRate from rfl,
      procLoop_cons_error .flng 1 0 (s := nanRate) (x := one) (xs := [half]) rfl h]
    rfl
  · have h : buildBank badPreset.cfg badPreset.rvrb.combMode badPreset.rvrb.apMode badPreset.draws =
        .error .sectionD := by
      decide +kernel
    have h2 : rvrbRefresh badPreset = .error .sectionD := by
      rw [rvrbRefresh, if_pos (show badPreset.rvrb.dirty = true from rfl), rvrbRebuild, h]
    rw [show exec (.procRvrb 0) badPreset = execProcRvrb 0 badPreset from rfl, execProcRvrb, h2]
    rfl

/-- The phase stays finite and the angle with it, at rate 1.0. -/
theorem demo_angleFinite : flngAngleFinite { fed demo with flng := demo.flng } 2 := by
  intro k hk
  have : k = 0 ∨ k = 1 := by omega
  rcases this with rfl | rfl <;> decide +kernel

/-- One state for all the hypotheses, a rebuild pending and two samples waiting. -/
theorem witness_NeverStops :
    ∃ s : State, s.cfg.num = .binary32 ∧ s.Inv ∧ s.rvrb.dirty = true ∧ rebuildSafe s ∧ s.in0.length = 2 ∧
      flngAngleFinite s s.in0.length := by
  refine ⟨{ fed demo with
    cmds := [0x01030000_00000000_00000000_00000002#128], rvrb := { demo.rvrb with dirty := true } }, rfl,
    demo_inv_with _ _ _ _ _ _, rfl, .inl ⟨rfl, rfl⟩, rfl, ?_⟩
  intro k hk
  exact demo_angleFinite k hk

theorem sameL_refl (l : List F32) : SameL l l := List.forall₂_same.2 fun _ _ => .inl rfl

theorem sameSection_refl (S : Section) : SameSection S S := ⟨rfl, rfl, rfl, rfl, sameL_refl _, sameL_refl _⟩

/-- Two blocks that differ in the payload of a NaN waiting on `in0` and in the count of free values used. -/
theorem witness_Deterministic :
    SameState { demo with in0 := [0x7FC00000#32] } { demo with in0 := [0xFFC00001#32], draws := 9 } ∧
    demo.cfg.num = .binary32 ∧ demo.rvrb.combMode = .preset ∧ demo.rvrb.apMode = .preset :=
  ⟨{ cfg := rfl, sec := sameSection_refl _, shlfParams := rfl, shlfState := sameL_refl _, wahParams := rfl,
     wahState := sameL_refl _, flngParams := rfl, flngState := sameL_refl _, dist := rfl, rvrbParams := rfl,
     bank := ⟨sameSection_refl _, sameSection_refl _, sameSection_refl _, sameSection_refl _, sameSection_refl _,
       sameSection_refl _, sameSection_refl _⟩,
     in0 := .cons (.inr ⟨by decide, by decide⟩) .nil, in1 := sameL_refl _, out := sameL_refl _, cmds := rfl,
     resp := rfl, busy := trivial }, rfl, rfl, rfl⟩

/-- The four pairs of runs. -/
theorem witness_Disabled :
    (∃ a b, exec (.procShlf 1) { fed demo with shlf := { demo.shlf with en := false } } = .next a ∧
      exec (.procShlf 1) { fed demo with shlf := { demo.shlf with en := true } } = .next b) ∧
    (∃ a b, exec (.procWah 1 true) { fed demo with wah := { demo.wah with en := false } } = .next a ∧
      exec (.procWah 1 true) { fed demo with wah := { demo.wah with en := true } } = .next b) ∧
    (∃ a b, exec (.procFlng 1) { fed demo with flng := { demo.flng with en := false } } = .next a ∧
      exec (.procFlng 1) { fed demo with flng := { demo.flng with en := true } } = .next b) ∧
    (∃ a b, exec (.procRvrb 1) { fed demo with rvrb := { demo.rvrb with en := false } } = .next a ∧
      exec (.procRvrb 1) { fed demo with rvrb := { demo.rvrb with en := true } } = .next b) := by
  refine ⟨⟨_, _, rfl, rfl⟩, ⟨_, _, rfl, rfl⟩, ?_, ⟨_, _, rfl, rfl⟩⟩
  obtain ⟨a, ha, -⟩ := exists_of_nx (o := exec (.procFlng 1) { fed demo with flng := { demo.flng with en := false } })
    (p := fun _ => true) (by decide +kernel)
  obtain ⟨b, hb, -⟩ := exists_of_nx (o := exec (.procFlng 1) { fed demo with flng := { demo.flng with en := true } })
    (p := fun _ => true) (by decide +kernel)
  exact ⟨a, b, ha, hb⟩

theorem witness_PassThrough : 1 ≤ available true (fed demo) ∧
    (∃ t, exec (.procDist 1) { fed demo with dist := { demo.dist with en := false } } = .next t) ∧
    (∃ t, exec (.procShlf 1) { fed demo with shlf := { demo.shlf with en := false } } = .next t) :=
  ⟨by decide, ⟨_, rfl⟩, ⟨_, rfl⟩⟩

/-- Halfway between 0 and the smallest subnormal: a tie, taken to the even one; and 2^277 - 2^252 is the overflow bound. -/
theorem witness_Rounding : roundMag 1 2 = 0 ∧
    ((scaledMag (roundMag 1 2) * 2 : Int) - 1).natAbs = ((scaledMag 1 * 2 : Int) - 1).natAbs ∧
    roundMag (2 ^ 277 - 2 ^ 252) 1 = infMag ∧ roundMag (2 ^ 277 - 2 ^ 252 - 1) 1 = infMag - 1 := by
  decide +kernel

/-- Operands for each clause: finite ones with an exact zero sum, a subnormal tie, a zero divisor, infinities, a NaN; and
`2.5`, halfway between two integers. -/
theorem witness_Operations : (isFinite one = true ∧ isFinite minusOne = true ∧ fval one + fval minusOne = 0) ∧
    (isFinite negZero = true ∧ isZero negZero = true ∧ isZero one = false) ∧
    (isInf 0x7F800000#32 = true ∧ isInf 0xFF800000#32 = true ∧ fsign 0x7F800000#32 ≠ fsign 0xFF800000#32) ∧
    isNaN 0x7FC00000#32 = true ∧ fval one < fval 0x7F800000#32 ∧
    roundI 0x40200000#32 = some 3 ∧ 2 * (3 * 2 ^ 149 - fval 0x40200000#32).natAbs = 2 ^ 149 := by decide +kernel

theorem witness_ShelfCommands : (2#32 ≠ 0#32 ∧ 2#32 ≠ 1#32) ∧ cutoffValid demo.cfg demo.shlf.cutoff = true ∧
    cutoffValid demo.cfg 1#32 = true ∧ cutoffValid demo.cfg 0x43FA0000#32 = false ∧
    cutoffValid ({ demo with shlf := { demo.shlf with cutoff := 0#32 } } : State).cfg
      ({ demo with shlf := { demo.shlf with cutoff := 0#32 } } : State).shlf.cutoff = false := by
  decide +kernel

theorem witness_DistFunc : (0x58#32 : Word32) ∉ [0x4C#32, 0x51#32, 0x45#32, 0x49#32, 0x53#32] := by decide

theorem witness_Cutoffs : demo.cfg.num = .binary32 ∧ isFinite demo.cfg.fs = true ∧ fgt demo.cfg.fs posZero = true := by
  decide +kernel

theorem witness_SecFilter : demo.sec.xh = 0#32 :: [0#32, 0#32] ∧ demo.sec.yh = 0#32 :: [0#32, 0#32] := by decide

/-- Samples before and after the first `D`. -/
theorem witness_DifferenceEquation : ([one, half, one] : List F32)[0]? = some one ∧
    ([one, half, one] : List F32)[2]? = some one ∧
    (fold (secFilter binary32) 5 0 (secNew 2 one one half) [one, half, one]).2.length = 3 := by
  decide +kernel

theorem witness_ProcSamples : 2 ≤ (fed demo).in0.length ∧ 2 ≤ available true (fed demo) ∧
    2 ≤ available false (fed demo) := by decide

theorem witness_Comb : (1 : Nat) ≤ 2 ∧ isFinite 0x3F333333#32 = true := by decide

/-- A filter with unity coefficients in zero state. -/
def unityShlf : Shlf :=
  ⟨.low, negZero, 0x42C80000#32, true, ⟨one, 0xBFA66666#32, 0x3F19999A#32, 0xBFA66666#32, 0x3F19999A#32⟩, 0#32, 0#32⟩

/-- Its gain and cutoff, its coefficients, an ordinary input and `-0.0`. -/
theorem witness_Unity : (isZero unityShlf.gainDb = true ∧ cutoffValid cfgT unityShlf.cutoff = true) ∧
    (unityShlf.coef.b0 = one ∧ unityShlf.coef.b1 = unityShlf.coef.a1 ∧ unityShlf.coef.b2 = unityShlf.coef.a2 ∧
      unityShlf.z1 = posZero ∧ unityShlf.z2 = posZero) ∧
    (isFinite half = true ∧ isFinite (fmul 0 half unityShlf.coef.a1) = true ∧
      isFinite (fmul 0 half unityShlf.coef.a2) = true) ∧
    (isFinite negZero = true ∧ isFinite (fmul 0 negZero unityShlf.coef.a1) = true ∧
      isFinite (fmul 0 negZero unityShlf.coef.a2) = true) := by
  decide +kernel

/-- V20's first output. -/
theorem witness_Biquad : half = fadd 1 (shlfV20 true).z1 (fmul 0 one (shlfV20 true).coef.b0) := by decide +kernel

/-- `hp` and `bp` of V30's sample 1. -/
theorem witness_WahRecursion :
    0xBF000000#32 = fsub 2 (fsub 0 0#32 0x3E800000#32) (fmul 1 half half) ∧
    0x3E800000#32 = fadd 4 (fmul 3 half 0xBF000000#32) half := by decide +kernel

/-- V60's `acc` at `k = 0`. -/
theorem witness_BankSum : posZero = fadd 23 (fadd 17 (fadd 11 (fadd 5 0#32 (secFilter binary32 0 bankT.comb0 one).2)
    (secFilter binary32 6 bankT.comb1 one).2) (secFilter binary32 12 bankT.comb2 one).2) (secFilter binary32 18 bankT.comb3 one).2 := by
  decide +kernel

theorem witness_WahRate : isFinite one = true ∧ fgt one posZero = true ∧ isFinite half = true ∧
    isFinite minusOne = true ∧ flt minusOne posZero = true ∧ fge half posZero = true ∧ fge posZero posZero = true := by
  decide +kernel

theorem witness_Pinned : isFinite (fsub 0 demo.wah.cutoffMax demo.wah.cutoffMin) = true ∧
    demo.wah.cutoffMin ≠ negZero := by decide +kernel

theorem witness_FlangerIndex : 1 ≤ demo.flng.cap ∧ demo.flng.cap < 2 ^ 24 ∧
    isFinite (lfoAngle binary32 0 demo.flng.phase demo.flng.lfoFreq) = true := by decide +kernel

theorem witness_FlangerReads : isFinite demo.flng.lfoFreq = true ∧
    roundI (fmul 6 (fsub 2 half (fmul 1 half (cos32 .binary32 (fmul 0 demo.flng.phase demo.flng.lfoFreq))))
      (i2f (demo.flng.cap - 1))) = some ((0 : Nat) : Int) ∧
    demo.flng.buf[0]? = some posZero ∧ demo.flng.buf[3 - 1 - 0]? = some posZero ∧ 0 < demo.flng.buf.length := by
  decide +kernel

theorem witness_ProcFlng : (fed demo).cfg.num = .binary32 ∧ State.Inv { fed demo with flng := demo.flng } ∧
    2 ≤ ({ fed demo with flng := demo.flng } : State).in0.length ∧
    flngAngleFinite { fed demo with flng := demo.flng } 2 :=
  ⟨rfl, demo_inv_with _ _ _ _ _ _, by decide, demo_angleFinite⟩

/-- The same at rate `+0.0`. -/
theorem witness_FlangerAtRest :
    demo.cfg.num = .binary32 ∧ State.Inv { fed demo with flng := { demo.flng with lfoFreq := posZero } } ∧
    flngAngleFinite { fed demo with flng := { demo.flng with lfoFreq := posZero } } 2 ∧ demo.flng.en = true := by
  refine ⟨rfl, { cfg := demo_inv.cfg, sec := demo_inv.sec, secD := demo_inv.secD, shlf := demo_inv.shlf,
                 flng := ⟨demo_inv.flng.cap, demo_inv.flng.pos, demo_inv.flng.fits, demo_inv.flng.buf⟩,
                 bank := demo_inv.bank, busy := fun _ h => nomatch h }, ?_, rfl⟩
  intro k hk
  have : k = 0 ∨ k = 1 := by omega
  rcases this with rfl | rfl <;> decide +kernel

/-- A Flanger with `WET_GAMMA = +0.0`. -/
def dryFlng : Flng := { demo.flng with wetGamma := posZero }

theorem dryFlng_tap : flngTap demo.cfg.tapOrigin dryFlng.buf
    dryFlng.lfoFreq
    (flngIndex (numOf demo.cfg) (0 + 6) dryFlng.cap (flngLfoNext (numOf demo.cfg) 0 demo.cfg.fs dryFlng).2) =
      .ok posZero := by decide +kernel

/-- An ordinary input and `-0.0` through it. -/
theorem witness_FlangerDry : demo.cfg.num = .binary32 ∧ (∃ g y, flngFilter 0 demo.cfg dryFlng half = .ok (g, y)) ∧
    (∃ g y, flngFilter 0 demo.cfg dryFlng negZero = .ok (g, y)) ∧ dryFlng.wetGamma = posZero ∧
    (∀ b ∈ dryFlng.buf, isFinite b = true) ∧ isNaN half = false ∧ isNaN negZero = false :=
  ⟨rfl, ⟨_, _, flngFilter_of_tap half dryFlng_tap⟩, ⟨_, _, flngFilter_of_tap negZero dryFlng_tap⟩, rfl,
    fun b hb => by rw [show b = posZero from List.eq_of_mem_replicate hb]; decide, by decide, by decide⟩

/-- A NaN rate; and an infinite one, at a phase that is not zero. -/
theorem witness_NonFiniteRate : (nanRate.cfg.num = .binary32 ∧ isNaN nanRate.flng.lfoFreq = true ∧
      isFinite nanRate.flng.lfoFreq = false ∧ nanRate.in0 ≠ []) ∧
    (isFinite infRate.flng.lfoFreq = false ∧ infRate.in0 ≠ []) := by
  decide +kernel

/-- On either side of `|x| (*) BOOST = 1.0`. -/
theorem witness_Waveshaper : fge (fmul 0 (fabs minusOne) one) one = true ∧
    fge (fmul 0 (fabs half) one) one = false ∧ isZero negZero = true ∧ isNaN 0x7FC00000#32 = true := by decide +kernel

theorem witness_Bounded : isNaN (fmul 0 (fabs 0x7F800000#32) two) = false ∧ fge two posZero = true ∧
    isNaN (fmul 0 (fabs half) negZero) = false ∧ fge negZero posZero = true := by decide +kernel

theorem witness_LCurve : flt (fabs half) one = true ∧ flt (fabs negZero) one = true := by decide +kernel

theorem bankT_built : buildBank cfgT .preset .preset 0 = .ok bankT := by decide +kernel

/-- A rebuild in preset mode. -/
theorem witness_Rebuild : ∃ t, rvrbRebuild demo = .ok t := ⟨_, rvrbRebuild_eq_ok.2 ⟨bankT, bankT_built, rfl⟩⟩

/-- A block whose Reverb is random in both modes, at 48 kHz. -/
def randomDemo : State :=
  { demo with cfg := Config.cfg0, rvrb := { demo.rvrb with combMode := .random, apMode := .random } }

/-- A section whose delay has between `a >= 1` and `b <= DMAX` taps can be made. -/
theorem exists_secOfDelay {cfg : Cfg} {delay : F32} {a b : Int} (x y z : F32) (ha : 1 ≤ a) (hb : b ≤ cfg.dmax)
    (h : ∃ d, delayTaps cfg delay = some d ∧ a ≤ d ∧ d ≤ b) : ∃ S, secOfDelay cfg delay x y z = .ok S := by
  obtain ⟨d, hd, h1, h2⟩ := h
  exact ⟨_, secOfDelay_eq_ok.2 ⟨d, hd, by omega, by omega, rfl⟩⟩

/-- A rebuild in random mode at 48 kHz, whatever is drawn (V64). -/
theorem witness_Rebuild_random : ∃ t, rvrbRebuild randomDemo = .ok t := by
  have hc : ∀ k p, ∃ S, combSection Config.cfg0 (combPair k .random p) = .ok S := fun k p =>
    exists_secOfDelay _ _ _ (by decide) (by decide) (test_random_comb_delay k)
  have hp : ∀ k p, ∃ S, apSection Config.cfg0 (apPair k .random p) = .ok S := fun k p =>
    exists_secOfDelay _ _ _ (by decide) (by decide) (test_random_ap_delay k)
  obtain ⟨c0, h0⟩ := hc 0 Config.cfg0.presetComb0
  obtain ⟨c1, h1⟩ := hc 2 Config.cfg0.presetComb1
  obtain ⟨c2, h2⟩ := hc 4 Config.cfg0.presetComb2
  obtain ⟨c3, h3⟩ := hc 6 Config.cfg0.presetComb3
  obtain ⟨a0, h4⟩ := hp 8 Config.cfg0.presetAp0
  obtain ⟨a1, h5⟩ := hp 9 Config.cfg0.presetAp1
  obtain ⟨a2, h6⟩ := hp 10 Config.cfg0.presetAp2
  have hb : buildBank Config.cfg0 .random .random 0 = .ok ⟨c0, c1, c2, c3, a0, a1, a2⟩ := by
    simp only [buildBank, Nat.zero_add, h0, h1, h2, h3, h4, h5, h6]
    rfl
  exact ⟨_, rvrbRebuild_eq_ok.2 ⟨_, hb, rfl⟩⟩

/-- Both ways in which a rebuild is safe. -/
theorem witness_RebuildSucceeds : (cfgSizesOk demo.cfg = true ∧ rebuildSafe demo) ∧
    (cfgSizesOk randomDemo.cfg = true ∧ rebuildSafe randomDemo) :=
  ⟨⟨demo_inv.cfg, .inl ⟨rfl, rfl⟩⟩, by decide +kernel, .inr ⟨rfl, by decide +kernel⟩⟩

/-- With and without a pending rebuild. -/
theorem witness_ProcRvrb :
    (∃ a, ({ demo with rvrb := { demo.rvrb with dirty := true } } : State).rvrb.dirty = true ∧
      rvrbRebuild { demo with rvrb := { demo.rvrb with dirty := true } } = .ok a) ∧
    demo.rvrb.dirty = false ∧ State.Inv { fed demo with rvrb := { demo.rvrb with dirty := true } } ∧
    rebuildSafe demo := by
  refine ⟨?_, rfl, demo_inv_with _ _ _ _ _ _, .inl ⟨rfl, rfl⟩⟩
  exact ⟨_, rfl, rvrbRebuild_eq_ok.2 ⟨bankT, bankT_built, rfl⟩⟩

/-- The rebuilt sections of `CFG_T` are at least two samples long and their gains finite. -/
theorem witness_Tail : demo.cfg.num = .binary32 ∧ ∃ t, rvrbRebuild demo = .ok t ∧
    (∀ S ∈ [t.rvrb.bank.comb0, t.rvrb.bank.comb1, t.rvrb.bank.comb2, t.rvrb.bank.comb3],
      ([one, half] : List F32).length ≤ S.d ∧ isFinite S.fbLast = true) ∧
    (∀ S ∈ [t.rvrb.bank.ap0, t.rvrb.bank.ap1, t.rvrb.bank.ap2], isFinite S.fbLast = true) := by
  exact ⟨rfl, _, rvrbRebuild_eq_ok.2 ⟨bankT, bankT_built, rfl⟩, by decide, by decide⟩

end Sys2Proof.Tests
end

section
/-! PROOFS. The statements of spec/00_scope.md: the constants of a run (R7), reset and its rejections (R8, R206, R241),
and the operations of binary32 (R11, R14, R16). -/

namespace Sys2Proof.Proofs

open Sys2Proof Sys2Proof.Machine Sys2Proof.Claims

/-! ## The `PROC` loop as a rule -/

/-- What popping, computing one sample, pushing, holding and answering keep, the loop of a `PROC` keeps (R87). -/
theorem procLoop_keeps {P : State → Prop} {u : UnitId} (sc : Bool) (n : Nat)
    (pop0 : ∀ s xs, P s → P { s with in0 := xs }) (pop1 : ∀ s es, P s → P { s with in1 := es })
    (sample : ∀ e x s t y, P s → unitSample u e x s = .ok (t, y) → P t) (push : ∀ s y, P s → P (pushOut y s))
    (hold : ∀ s p, P s → P { s with busy := p }) (answer : ∀ s, P s → P (respondOk n s)) (left : Nat) :
    ∀ {s t : State}, P s → procLoop u sc n left s = .next t → P t := by
  induction left with
  | zero =>
    intro s t hs h
    rw [procLoop_zero] at h
    cases h
    exact answer _ (hold _ _ hs)
  | succ left ih =>
    intro s t hs h
    cases h0 : s.in0 with
    | nil =>
      rw [procLoop_empty u sc n left h0] at h
      cases h
      exact hold _ _ hs
    | cons x xs =>
      cases sc with
      | false =>
        cases hu : unitSample u none x { s with in0 := xs } with
        | error why => rw [procLoop_cons_error u n left h0 hu] at h; cases h
        | ok r =>
          rw [procLoop_cons u n left h0 hu] at h
          exact ih (push _ _ (sample _ _ _ _ _ (pop0 _ _ hs) hu)) h
      | true =>
        cases h1 : s.in1 with
        | nil =>
          rw [procLoop_empty_side u n left h0 h1] at h
          cases h
          exact hold { s with in0 := xs } _ (pop0 _ _ hs)
        | cons e es =>
          cases hu : unitSample u (some e) x { s with in0 := xs, in1 := es } with
          | error why => rw [procLoop_cons_side_error u n left h0 h1 hu] at h; cases h
          | ok r =>
            rw [procLoop_cons_side u n left h0 h1 hu] at h
            exact ih (push _ _ (sample _ _ _ _ _ (pop1 { s with in0 := xs } _ (pop0 _ _ hs)) hu)) h

/-! ## The constants of a run (R7, R27, R30) -/

/-- The configuration, `SEC.D` and `FLNG.CAP` of `t` are those of `s`. -/
def SameConstants (s t : State) : Prop := t.cfg = s.cfg ∧ t.sec.d = s.sec.d ∧ t.flng.cap = s.flng.cap

/-- A sample moves the histories of `SEC` and the delay line of `FLNG`, never their sizes. -/
theorem unitSample_sameConstants {u : UnitId} {e : Option F32} {x y : F32} {s t : State}
    (h : unitSample u e x s = .ok (t, y)) : SameConstants s t := by
  obtain ⟨⟨hcfg, -⟩, hsec, -, -, hflng, -⟩ := unitSample_frame h
  refine ⟨hcfg, ?_, ?_⟩
  · cases u with
    | sec => cases h; rfl
    | shlf | wah | flng | dist | rvrb => rw [hsec (by decide)]
  · cases u with
    | flng =>
      obtain ⟨f, w, hf, rfl, -⟩ := flngSample_eq_ok.1 h
      rw [flngFilter_frame hf]
    | sec | shlf | wah | dist | rvrb => rw [hflng (by decide)]

theorem procLoop_sameConstants {u : UnitId} {sc : Bool} {n left : Nat} {s₀ s t : State} (hs : SameConstants s₀ s)
    (h : procLoop u sc n left s = .next t) : SameConstants s₀ t := by
  refine procLoop_keeps (P := SameConstants s₀) sc n (fun _ _ hs => hs) (fun _ _ hs => hs) ?_ (fun _ _ hs => hs)
    (fun _ _ hs => hs) (fun _ hs => hs) left hs h
  intro e x a b y ⟨hcfg, hd, hcap⟩ hu
  obtain ⟨hcfg', hd', hcap'⟩ := unitSample_sameConstants hu
  exact ⟨hcfg'.trans hcfg, hd'.trans hd, hcap'.trans hcap⟩

theorem rvrbRefresh_sameConstants {s t : State} (h : rvrbRefresh s = .ok t) : SameConstants s t := by
  unfold rvrbRefresh at h
  split at h
  · obtain ⟨bank, -, rfl⟩ := rvrbRebuild_eq_ok.1 h
    exact ⟨rfl, rfl, rfl⟩
  · cases h
    exact ⟨rfl, rfl, rfl⟩

theorem shelfRederive_sameConstants (ty : Option ShelfType) (g c : F32) (s : State) :
    SameConstants s (shelfRederive ty g c s) := by
  unfold shelfRederive
  split
  · exact ⟨rfl, rfl, rfl⟩
  · split <;> exact ⟨rfl, rfl, rfl⟩

theorem execSetDistFuncDist_sameConstants {code : Word32} {s t : State}
    (h : execSetDistFuncDist code s = .next t) : SameConstants s t := by
  unfold execSetDistFuncDist at h
  split at h <;> cases h <;> exact ⟨rfl, rfl, rfl⟩

/-- No command changes a constant: `PROC` by its loop, the parameter commands because they write other registers. -/
theorem exec_sameConstants {i : Instr} {s t : State} (h : exec i s = .next t) : SameConstants s t := by
  cases i with
  | procSec | procShlf | procWah | procFlng | procDist => exact procLoop_sameConstants ⟨rfl, rfl, rfl⟩ h
  | procRvrb n =>
    simp only [exec, execProcRvrb] at h
    split at h
    · cases h
    · exact procLoop_sameConstants (rvrbRefresh_sameConstants ‹_›) h
  | setTypeShlf | setGainShlf | setCutoffShlf => cases h; exact shelfRederive_sameConstants _ _ _ _
  | setDistFuncDist => exact execSetDistFuncDist_sameConstants h
  | setEnabledShlf | setEnabledWah | setEnabledFlng | setEnabledDist | setEnabledRvrb | setWetGammaFlng
  | setWetGammaDist | setWetGammaRvrb | setLfoFreqWah | setLfoFreqFlng | setTapsSec | resetHistSec | setCutoffMinWah
  | setCutoffMaxWah | setDampWah | setBoostDist | setCombModeRvrb | setApModeRvrb => cases h; exact ⟨rfl, rfl, rfl⟩

/-- Settles O18: a step goes on with a `PROC`, waits, rejects or executes; each keeps the constants. -/
theorem stepKeepsTheConstants : Obligations.StepKeepsTheConstants := by
  intro s t h
  unfold step at h
  split at h
  · unfold procResume at h
    refine procLoop_sameConstants ?_ h
    exact ⟨rfl, rfl, rfl⟩
  · split at h
    · cases h
      exact ⟨rfl, rfl, rfl⟩
    · rename_i htake
      obtain ⟨ws, -, rfl⟩ := takeCommand_eq_some.1 htake
      split at h
      · cases h
        exact ⟨rfl, rfl, rfl⟩
      · exact exec_sameConstants (s := { s with cmds := ws }) h

/-! ## Building the Reverb's bank (R206) -/

theorem exists_secOfDelay {cfg : Cfg} {delay : F32} (a b c : F32)
    (h : ∃ d : Int, delayTaps cfg delay = some d ∧ 1 ≤ d ∧ d ≤ cfg.dmax) :
    ∃ S, secOfDelay cfg delay a b c = .ok S := by
  obtain ⟨d, hd, h1, h2⟩ := h
  exact ⟨_, secOfDelay_eq_ok.2 ⟨d, hd, h1, h2, rfl⟩⟩

/-- Seven pairs whose delays have legal tap spacings make a bank. -/
theorem exists_buildBank {cfg : Cfg} {cm am : Mode} (k : Nat)
    (hc : ∀ j, ∀ p ∈ [cfg.presetComb0, cfg.presetComb1, cfg.presetComb2, cfg.presetComb3],
      ∃ d : Int, delayTaps cfg (combPair j cm p).delay = some d ∧ 1 ≤ d ∧ d ≤ cfg.dmax)
    (ha : ∀ j, ∀ p ∈ [cfg.presetAp0, cfg.presetAp1, cfg.presetAp2],
      ∃ d : Int, delayTaps cfg (apPair j am p).delay = some d ∧ 1 ≤ d ∧ d ≤ cfg.dmax) :
    ∃ bank, buildBank cfg cm am k = .ok bank := by
  have comb : ∀ j, ∀ p ∈ [cfg.presetComb0, cfg.presetComb1, cfg.presetComb2, cfg.presetComb3],
      ∃ S, combSection cfg (combPair j cm p) = .ok S := fun j p hp => exists_secOfDelay _ _ _ (hc j p hp)
  have ap : ∀ j, ∀ p ∈ [cfg.presetAp0, cfg.presetAp1, cfg.presetAp2],
      ∃ S, apSection cfg (apPair j am p) = .ok S := fun j p hp => exists_secOfDelay _ _ _ (ha j p hp)
  obtain ⟨c0, h0⟩ := comb k cfg.presetComb0 (by simp)
  obtain ⟨c1, h1⟩ := comb (k + 2) cfg.presetComb1 (by simp)
  obtain ⟨c2, h2⟩ := comb (k + 4) cfg.presetComb2 (by simp)
  obtain ⟨c3, h3⟩ := comb (k + 6) cfg.presetComb3 (by simp)
  obtain ⟨a0, h4⟩ := ap (k + 8) cfg.presetAp0 (by simp)
  obtain ⟨a1, h5⟩ := ap (k + 9) cfg.presetAp1 (by simp)
  obtain ⟨a2, h6⟩ := ap (k + 10) cfg.presetAp2 (by simp)
  refine ⟨⟨c0, c1, c2, c3, a0, a1, a2⟩, ?_⟩
  simp only [buildBank, h0, h1, h2, h3, h4, h5, h6]
  rfl

theorem sizeWithin_iff {hi : Nat} {o : Option Int} :
    sizeWithin hi o = true ↔ ∃ d : Int, o = some d ∧ 1 ≤ d ∧ d ≤ hi := by
  cases o <;> simp [sizeWithin]

/-- `FS` of a configuration with legal sizes is a finite number without sign. -/
theorem fs_of_cfgSizesOk {cfg : Cfg} (h : cfgSizesOk cfg = true) : isFinite cfg.fs = true ∧ fsign cfg.fs = false := by
  simp only [cfgSizesOk, Bool.and_eq_true] at h
  have hpos : fgt cfg.fs posZero = true := by tauto
  refine ⟨by tauto, ?_⟩
  simp only [fgt, flt, Bool.and_eq_true, decide_eq_true_eq, orderKey, show fsign posZero = false from rfl,
    show fmag posZero = 0 from rfl] at hpos
  by_contra hs
  simp only [Bool.not_eq_false] at hs
  simp [hs] at hpos
  omega

/-- Every preset of a configuration with legal sizes has a legal tap spacing (R7). -/
theorem presets_of_cfgSizesOk {cfg : Cfg} (h : cfgSizesOk cfg = true) :
    (∀ p ∈ [cfg.presetComb0, cfg.presetComb1, cfg.presetComb2, cfg.presetComb3],
      ∃ d : Int, delayTaps cfg p.delay = some d ∧ 1 ≤ d ∧ d ≤ cfg.dmax) ∧
    (∀ p ∈ [cfg.presetAp0, cfg.presetAp1, cfg.presetAp2],
      ∃ d : Int, delayTaps cfg p.delay = some d ∧ 1 ≤ d ∧ d ≤ cfg.dmax) := by
  simp only [cfgSizesOk, presetOk, Bool.and_eq_true, sizeWithin_iff] at h
  obtain ⟨⟨⟨⟨⟨⟨⟨-, h0⟩, h1⟩, h2⟩, h3⟩, h4⟩, h5⟩, h6⟩ := h
  simp only [List.forall_mem_cons, List.not_mem_nil, false_imp_iff, implies_true, and_true]
  exact ⟨⟨h0, h1, h2, h3⟩, h4, h5, h6⟩

theorem isFinite_of_roundI_eq_some {a : F32} {d : Int} (h : roundI a = some d) : isFinite a = true := by
  unfold roundI at h
  split at h
  · assumption
  · cases h

/-- From `0.5` on, a finite number is rounded to an integer of at least 1. -/
theorem one_le_roundI {m : Nat} (hm : m < infMag) (h : fle half (packF false m) = true) :
    ∃ a : Int, roundI (packF false m) = some a ∧ 1 ≤ a := by
  have hlt : m < 2 ^ 31 := hm.trans (by decide)
  have hle : 0x3F000000 ≤ m := by
    simp only [fle, Bool.and_eq_true, decide_eq_true_eq, orderKey, fsign_packF false hlt, fmag_packF false hlt] at h
    exact Int.ofNat_le.1 h.2
  refine ⟨_, roundI_nonneg hm, Int.ofNat_le.2 ((Nat.one_le_div_iff (by positivity)).2 ?_)⟩
  have hhalf : scaledMag 0x3F000000 = 2 ^ 148 := by decide +kernel
  have := scaledMag_mono hle
  omega

/-- `[C0_0001, C0_030]` holds the intervals of both kinds of delay; its two ends decide, and R206 speaks of them. -/
theorem delayTaps_of_random {cfg : Cfg} (hn : cfg.num = .binary32) (hs : cfgSizesOk cfg = true)
    (hr : cfgRandomOk cfg = true) {v : F32} (hv : within c0_0001 c0_030 v = true) :
    ∃ d : Int, delayTaps cfg v = some d ∧ 1 ≤ d ∧ d ≤ cfg.dmax := by
  obtain ⟨ffs, sfs⟩ := fs_of_cfgSizesOk hs
  simp only [cfgRandomOk, numOf_binary32 hn, binary32_le, binary32_mul, Bool.and_eq_true] at hr
  obtain ⟨hhalf, htop⟩ := hr
  split at htop
  · cases htop
  next b hb =>
    have hlow : roundMag (scaledMag (fmag c0_0001) * scaledMag (fmag cfg.fs)) (2 ^ 149) < infMag := by
      have hfin := isFinite_iff.1 (isFinite_of_roundI_eq_some hb)
      rw [fmul_nonneg 0 (by decide) ffs (by decide) sfs, fmag_packF _ (roundMag_lt _ _)] at hfin
      refine (roundMag_mono _ (Nat.mul_le_mul_right _ (scaledMag_mono ?_))).trans_lt hfin
      decide
    rw [fmul_comm, fmul_nonneg 0 (by decide) ffs (by decide) sfs] at hhalf
    obtain ⟨a, ha, h1⟩ := one_le_roundI hlow hhalf
    rw [← fmul_nonneg 0 (by decide) ffs (by decide) sfs] at ha
    have taps : ∀ c, delayTaps cfg c = roundI (fmul 0 c cfg.fs) := fun c => by rw [delayTaps, numOf_binary32 hn]; rfl
    obtain ⟨d, hd, had, hdb⟩ := delayTaps_between hn ffs sfs (by decide) (by decide) (by decide) hv
      ((taps c0_0001).trans ha) ((taps c0_030).trans hb)
    exact ⟨d, hd, h1.trans had, hdb.trans (of_decide_eq_true htop)⟩

theorem fle_trans {a b c : F32} (h : fle a b = true) (h' : fle b c = true) : fle a c = true := by
  simp only [fle, ordered, Bool.and_eq_true, decide_eq_true_eq] at h h' ⊢
  exact ⟨⟨h.1.1, h'.1.2⟩, h.2.trans h'.2⟩

theorem within_mono {lo hi lo' hi' v : F32} (hlo : fle lo' lo = true) (hhi : fle hi hi' = true)
    (h : within lo hi v = true) : within lo' hi' v = true := by
  simp only [within, Bool.and_eq_true] at h ⊢
  exact ⟨fle_trans hlo h.1, fle_trans h.2 hhi⟩

/-- A bank is built whatever is drawn: legal presets, and in random mode, under binary32, the condition of R206. -/
theorem exists_buildBank_of_cfg {cfg : Cfg} {cm am : Mode} (k : Nat) (hs : cfgSizesOk cfg = true)
    (hm : (cm = .preset ∧ am = .preset) ∨ (cfg.num = .binary32 ∧ cfgRandomOk cfg = true)) :
    ∃ bank, buildBank cfg cm am k = .ok bank := by
  obtain ⟨hpc, hpa⟩ := presets_of_cfgSizesOk hs
  refine exists_buildBank k (fun j p hp => ?_) (fun j p hp => ?_)
  · cases cm with
    | preset => exact hpc p hp
    | random =>
      obtain ⟨hn, hr⟩ := hm.resolve_left (by simp)
      have hw : within c0_015 c0_030 (draw (j + 1) c0_015 c0_030) = true := draw_within _ (by decide)
      exact delayTaps_of_random hn hs hr (within_mono (by decide) (by decide) hw)
  · cases am with
    | preset => exact hpa p hp
    | random =>
      obtain ⟨hn, hr⟩ := hm.resolve_left (by simp)
      have hw : within c0_0001 c0_0101 (draw j c0_0001 c0_0101) = true := draw_within _ (by decide)
      exact delayTaps_of_random hn hs hr (within_mono (by decide) (by decide) hw)

/-! ## Reset and its rejections (R8, R240, R241) -/

section reset
variable {cfg : Cfg} (k : Nat)

theorem resetOf_of_sizes_bad (h : cfgSizesOk cfg = false) : resetOf cfg k = .error .illFormed := by
  simp [resetOf, h]

theorem resetOf_of_shelfType_none (hs : cfgSizesOk cfg = true) (ht : shelfTypeOf cfg.shlfInit.shelfType = none) :
    resetOf cfg k = .error (.invalidParameter .shelfType) := by
  simp [resetOf, hs, ht]

variable {ty : ShelfType} (hs : cfgSizesOk cfg = true) (ht : shelfTypeOf cfg.shlfInit.shelfType = some ty)
include hs ht

theorem resetOf_of_cutoff_bad (hc : cutoffValid cfg cfg.shlfInit.cutoff = false) :
    resetOf cfg k = .error (.invalidParameter .cutoff) := by
  simp [resetOf, hs, ht, hc]

theorem resetOf_of_curve_none (hc : cutoffValid cfg cfg.shlfInit.cutoff = true)
    (hf : curveOf cfg.distInit.func = none) : resetOf cfg k = .error (.invalidParameter .curve) := by
  simp [resetOf, hs, ht, hc, hf]

theorem exists_resetOf {f : Curve} {bank : Bank} (hc : cutoffValid cfg cfg.shlfInit.cutoff = true)
    (hf : curveOf cfg.distInit.func = some f)
    (hb : buildBank cfg cfg.rvrbInit.combMode cfg.rvrbInit.apMode k = .ok bank) : ∃ s, resetOf cfg k = .ok s := by
  simp [resetOf, hs, ht, hc, hf, hb]

end reset

theorem shelfTypeOf_eq_none {t : Word32} (h0 : t ≠ 0#32) (h1 : t ≠ 1#32) : shelfTypeOf t = none := by
  rw [shelfTypeOf, if_neg h0, if_neg h1]

/-- Settles O14: one clause per way `resetOf` can go; the last one builds the bank by R206. -/
theorem resetRejectsInTheOrderOfTheUnits : Obligations.ResetRejectsInTheOrderOfTheUnits := by
  intro cfg k
  refine ⟨resetOf_of_sizes_bad k, ?_, ?_, ?_, ?_⟩
  · intro hs h0 h1
    exact resetOf_of_shelfType_none k hs (shelfTypeOf_eq_none h0 h1)
  · intro hs ht hc
    obtain ⟨ty, ht⟩ := Option.ne_none_iff_exists'.1 ht
    exact resetOf_of_cutoff_bad k hs ht hc
  · intro hs ht hc hf
    obtain ⟨ty, ht⟩ := Option.ne_none_iff_exists'.1 ht
    exact resetOf_of_curve_none k hs ht hc hf
  · intro hs ht hc hf hm
    obtain ⟨ty, ht⟩ := Option.ne_none_iff_exists'.1 ht
    obtain ⟨f, hf⟩ := Option.ne_none_iff_exists'.1 hf
    obtain ⟨bank, hb⟩ := exists_buildBank_of_cfg k hs hm
    exact exists_resetOf k hs ht hc hf hb

/-! ## Magnitude bits as exponent and significand -/

/-- Magnitude bits `e * 2^23 + r` with a significand `r` of at most 24 bits stand for `r * 2^e`; `r = 2^24` is the carry
into the next binade. -/
theorem scaledMag_significand {e r : Nat} (hr : r ≤ 2 ^ 24) (he : e = 0 ∨ 2 ^ 23 ≤ r) :
    scaledMag (e * 2 ^ 23 + r) = r * 2 ^ e := by
  rcases Nat.lt_or_ge r (2 ^ 23) with h | h
  · obtain rfl : e = 0 := by omega
    rw [scaledMag, if_pos (by omega)]
    simp
  · rcases hr.lt_or_eq with h' | rfl
    · have hdiv : (e * 2 ^ 23 + r) / 2 ^ 23 = e + 1 := by omega
      have hmod : 2 ^ 23 + (e * 2 ^ 23 + r) % 2 ^ 23 = r := by omega
      rw [scaledMag, if_neg (by omega), hdiv, hmod, Nat.add_sub_cancel]
    · have hdiv : (e * 2 ^ 23 + 2 ^ 24) / 2 ^ 23 = e + 2 := by omega
      have hmod : (e * 2 ^ 23 + 2 ^ 24) % 2 ^ 23 = 0 := by omega
      rw [scaledMag, if_neg (by omega), hdiv, hmod, show e + 2 - 1 = e + 1 by omega, pow_succ]
      ring

theorem exists_significand (m : Nat) : ∃ e r, m = e * 2 ^ 23 + r ∧ r < 2 ^ 24 ∧ (e = 0 ∨ 2 ^ 23 ≤ r) :=
  ⟨m / 2 ^ 23 - 1, m - (m / 2 ^ 23 - 1) * 2 ^ 23, by omega, by omega, by omega⟩

theorem scaledMag_strictMono : StrictMono scaledMag := by
  refine strictMono_nat_of_lt_succ fun m => ?_
  obtain ⟨e, r, rfl, hr, he⟩ := exists_significand m
  rw [Nat.add_assoc, scaledMag_significand hr.le he, scaledMag_significand hr (he.imp_right Nat.le_succ_of_le)]
  exact Nat.mul_lt_mul_of_pos_right (Nat.lt_succ_self r) (by positivity)

/-- A magnitude is on the grid of spacing `2^e`, or below the binade in which that is the spacing. -/
theorem scaledMag_grid (e m : Nat) : 2 ^ e ∣ scaledMag m ∨ (e ≠ 0 ∧ scaledMag m < 2 ^ 23 * 2 ^ e) := by
  obtain ⟨e', r, rfl, hr, he⟩ := exists_significand m
  rw [scaledMag_significand hr.le he]
  rcases Nat.lt_or_ge e' e with h | h
  · refine .inr ⟨by omega, ?_⟩
    calc r * 2 ^ e' < 2 ^ 24 * 2 ^ e' := Nat.mul_lt_mul_of_pos_right hr (by positivity)
      _ = 2 ^ 23 * 2 ^ (e' + 1) := by ring
      _ ≤ 2 ^ 23 * 2 ^ e := Nat.mul_le_mul_left _ (Nat.pow_le_pow_right (by decide) h)
  · exact .inl (Dvd.dvd.mul_left (pow_dvd_pow 2 h) r)

/-! ## Rounding to a multiple -/

/-- The distance of `v` from `n`. -/
def offBy (n v : Nat) : Nat := ((v : Int) - n).natAbs

/-- `roundEven` is at most half a unit off, and even where it is half a unit off. -/
theorem roundEven_near (n : Nat) {D : Nat} (hD : 0 < D) :
    2 * offBy n (roundEven n D * D) ≤ D ∧ (2 * offBy n (roundEven n D * D) = D → roundEven n D % 2 = 0) := by
  have hn := Nat.div_add_mod' n D
  have hlt := Nat.mod_lt n hD
  have down : offBy n (n / D * D) = n % D := by
    unfold offBy
    omega
  have up : offBy n ((n / D + 1) * D) = D - n % D := by
    rw [Nat.succ_mul, offBy]
    omega
  unfold roundEven
  rcases Nat.lt_trichotomy (2 * (n % D)) D with h | h | h
  · simp only [if_pos h, down]
    omega
  · simp only [h, lt_irrefl, if_false]
    rcases Nat.mod_two_eq_zero_or_one (n / D) with hq | hq
    · simp only [hq, Nat.add_zero, down]
      exact ⟨h.le, fun _ => trivial⟩
    · simp only [hq, up]
      omega
  · simp only [if_neg h.not_gt, if_pos h, up]
    omega

/-- Every other multiple is at least as far away; as far only if `roundEven` is even. -/
theorem roundEven_nearest {n D j : Nat} (hD : 0 < D) (hj : j ≠ roundEven n D) :
    offBy n (roundEven n D * D) ≤ offBy n (j * D) ∧
      (offBy n (roundEven n D * D) = offBy n (j * D) → roundEven n D % 2 = 0) := by
  obtain ⟨hle, heven⟩ := roundEven_near n hD
  have apart : D ≤ offBy n (roundEven n D * D) + offBy n (j * D) := by
    have : D ≤ (((j : Int) - roundEven n D) * D).natAbs := by
      rw [Int.natAbs_mul, Int.natAbs_natCast]
      exact Nat.le_mul_of_pos_left D (by omega)
    rw [sub_mul] at this
    unfold offBy
    omega
  omega

/-! ## Rounding a magnitude -/

/-- What `roundMag` is before the infinity bounds it. -/
def unboundedMag (n d : Nat) : Nat := dropped n d * 2 ^ 23 + roundEven n (d * 2 ^ dropped n d)

theorem roundMag_eq_min (n d : Nat) : roundMag n d = min infMag (unboundedMag n d) := rfl

/-- The significand is below `2^24`, and from `2^23` on where digits are dropped. -/
theorem div_dropped_bounds (n d : Nat) :
    n / (d * 2 ^ dropped n d) < 2 ^ 24 ∧ (dropped n d = 0 ∨ 2 ^ 23 ≤ n / (d * 2 ^ dropped n d)) := by
  rw [← Nat.div_div_eq_div_mul]
  constructor
  · rw [Nat.div_lt_iff_lt_mul (by positivity), ← pow_add]
    refine Nat.lt_log2_self.trans_le (Nat.pow_le_pow_right (by decide) ?_)
    rw [dropped]
    omega
  · refine (Nat.eq_zero_or_pos (dropped n d)).imp_right fun h => ?_
    have hlog : 23 + dropped n d = Nat.log2 (n / d) := by rw [dropped] at h ⊢; omega
    rw [Nat.le_div_iff_mul_le (by positivity), ← pow_add, hlog]
    exact Nat.log2_self_le fun h0 => by simp [dropped, h0] at h

theorem scaledMag_unboundedMag (n d : Nat) :
    scaledMag (unboundedMag n d) = roundEven n (d * 2 ^ dropped n d) * 2 ^ dropped n d := by
  obtain ⟨hlt, hge⟩ := div_dropped_bounds n d
  exact scaledMag_significand ((roundEven_le_succ _ _).trans hlt) (hge.imp_right (·.trans (le_roundEven _ _)))

/-- No other magnitude bits are nearer to `n / d`, also across a binade's border; as near only if `unboundedMag` is
even. -/
theorem unboundedMag_nearest {n d m : Nat} (hd : 0 < d) (hm : m ≠ unboundedMag n d) :
    offBy n (scaledMag (unboundedMag n d) * d) ≤ offBy n (scaledMag m * d) ∧
      (offBy n (scaledMag (unboundedMag n d) * d) = offBy n (scaledMag m * d) → unboundedMag n d % 2 = 0) := by
  set e := dropped n d with he
  set r := roundEven n (d * 2 ^ e) with hr
  have hD : 0 < d * 2 ^ e := by positivity
  have toGrid : ∀ j, j * 2 ^ e * d = j * (d * 2 ^ e) := fun j => by ring
  have hu : scaledMag (unboundedMag n d) = r * 2 ^ e := scaledMag_unboundedMag n d
  have hparity : unboundedMag n d % 2 = r % 2 := by rw [unboundedMag, ← he, ← hr]; omega
  rw [hu, hparity, toGrid]
  rcases scaledMag_grid e m with ⟨j, hj⟩ | ⟨he0, hlt⟩
  · have hjr : j ≠ r := by
      rintro rfl
      exact hm (scaledMag_strictMono.injective (by rw [hj, hu, Nat.mul_comm]))
    rw [hj, Nat.mul_comm (2 ^ e), toGrid]
    exact roundEven_nearest hD hjr
  · have hn : 2 ^ 23 * (d * 2 ^ e) ≤ n :=
      (Nat.le_div_iff_mul_le hD).1 ((div_dropped_bounds n d).2.resolve_left he0)
    have hfar : scaledMag m * d < 2 ^ 23 * (d * 2 ^ e) :=
      (Nat.mul_lt_mul_of_pos_right hlt hd).trans_eq (toGrid _)
    have hborder : offBy n (r * (d * 2 ^ e)) ≤ offBy n (2 ^ 23 * (d * 2 ^ e)) := by
      by_cases h : 2 ^ 23 = r
      · rw [h]
      · exact (roundEven_nearest hD h).1
    have hlt : offBy n (r * (d * 2 ^ e)) < offBy n (scaledMag m * d) := by
      refine hborder.trans_lt ?_
      unfold offBy
      omega
    exact ⟨hlt.le, fun h => absurd h hlt.ne⟩

/-- The infinity's magnitude bits are reached from the middle between the largest finite magnitude and `2^277` on; in
the middle itself because that magnitude's bits are odd. -/
theorem infMag_le_unboundedMag {n d : Nat} (hd : 0 < d) :
    infMag ≤ unboundedMag n d ↔ (2 ^ 277 - 2 ^ 252) * d ≤ n := by
  have hinf : scaledMag infMag = 2 ^ 277 := by decide +kernel
  have hmax : scaledMag (infMag - 1) = 2 ^ 277 - 2 ^ 253 := by decide +kernel
  constructor
  · intro h
    by_contra hn
    have hs : 2 ^ 277 * d ≤ scaledMag (unboundedMag n d) * d :=
      Nat.mul_le_mul_right _ (hinf ▸ scaledMag_strictMono.monotone h)
    have hne : infMag - 1 ≠ unboundedMag n d := ((Nat.sub_lt (by decide) Nat.one_pos).trans_le h).ne
    have hle := (unboundedMag_nearest hd hne).1
    rw [hmax] at hle
    unfold offBy at hle
    omega
  · intro hn
    by_contra h
    have hs : scaledMag (unboundedMag n d) * d ≤ (2 ^ 277 - 2 ^ 253) * d :=
      Nat.mul_le_mul_right _ (hmax ▸ scaledMag_strictMono.monotone (by omega))
    obtain ⟨hle, heven⟩ := unboundedMag_nearest (n := n) (m := infMag) hd (by omega)
    rw [hinf] at hle heven
    unfold offBy at hle heven
    have heq : scaledMag (unboundedMag n d) * d = scaledMag (infMag - 1) * d := by rw [hmax]; omega
    have hlast : unboundedMag n d = infMag - 1 :=
      scaledMag_strictMono.injective (Nat.eq_of_mul_eq_mul_right hd heq)
    have hodd : unboundedMag n d % 2 = 1 := by rw [hlast]; rfl
    omega

/-- `roundMag` rounds to nearest, ties to even (R14). -/
theorem roundMag_nearest (n : Nat) {d : Nat} (hd : 0 < d) : Nearest n d (roundMag n d) := by
  have unbounded : roundMag n d < infMag → roundMag n d = unboundedMag n d := by
    rw [roundMag_eq_min]
    omega
  have dist : ∀ m, ((scaledMag m * d : Int) - n).natAbs = offBy n (scaledMag m * d) := fun m => by
    rw [offBy, Nat.cast_mul]
  refine ⟨?_, roundMag_le_infMag n d, fun h m' _ => ?_, fun h m' _ hne heq => ?_⟩
  · rw [← infMag_le_unboundedMag hd, roundMag_eq_min]
    omega
  · rw [unbounded h, dist, dist]
    by_cases hne : m' = unboundedMag n d
    · rw [hne]
    · exact (unboundedMag_nearest hd hne).1
  · rw [unbounded h, dist, dist] at heq
    rw [unbounded h] at hne ⊢
    exact (unboundedMag_nearest hd hne).2 heq

/-! ## Kinds of numbers -/

theorem isInf_iff {a : F32} : isInf a = true ↔ fmag a = infMag := beq_iff_eq

theorem isInf_of_isFinite {a : F32} (h : isFinite a = true) : isInf a = false :=
  beq_false_of_ne (isFinite_iff.1 h).ne

theorem isNaN_of_isInf {a : F32} (h : isInf a = true) : isNaN a = false :=
  decide_eq_false (isInf_iff.1 h).le.not_gt

theorem isZero_of_isInf {a : F32} (h : isInf a = true) : isZero a = false :=
  beq_false_of_ne (by rw [isInf_iff.1 h]; decide)

theorem isInf_of_isZero {a : F32} (h : isZero a = true) : isInf a = false :=
  beq_false_of_ne (by rw [isZero_iff.1 h]; decide)

theorem isNaN_packF (s : Bool) {m : Nat} (h : m ≤ infMag) : isNaN (packF s m) = false := by
  rw [isNaN, fmag_packF s (h.trans_lt (by decide))]
  exact decide_eq_false h.not_gt

theorem isNaN_packF_roundMag (s : Bool) (n d : Nat) : isNaN (packF s (roundMag n d)) = false :=
  isNaN_packF s (roundMag_le_infMag n d)

theorem isFinite_fneg (a : F32) : isFinite (fneg a) = isFinite a := by simp [isFinite, fmag_fneg]

theorem isInf_fneg (a : F32) : isInf (fneg a) = isInf a := by simp [isInf, fmag_fneg]

theorem fsign_fneg (a : F32) : fsign (fneg a) = !fsign a := by
  have key : ∀ b : F32, fsign b = b.msb := fun b => by
    rw [fsign, BitVec.msb_eq_decide]
    exact decide_eq_decide.2 (by omega)
  rw [key, key, fneg, BitVec.msb_xor]
  exact Bool.xor_true _

theorem fval_fneg (a : F32) : fval (fneg a) = -fval a := by
  rw [fval, fval, fsign_fneg, fmag_fneg]
  cases fsign a <;> simp

theorem fneg_eq_negZero {a : F32} : fneg a = negZero ↔ a = posZero := by
  rw [fneg, negZero, posZero]
  exact ⟨fun h => by simpa using congrArg (· ^^^ 0x80000000#32) h, fun h => by rw [h]; rfl⟩

/-! ## The four operations, kind by kind (R14) -/

section operations
variable (k : Nat) {a b : F32}

theorem fadd_finite (ha : isFinite a = true) (hb : isFinite b = true) :
    fadd k a b = if fval a + fval b = 0 then packF (fsign a && fsign b) 0
      else packF (decide (fval a + fval b < 0)) (roundMag (fval a + fval b).natAbs 1) := by
  simp [fadd, isNaN_of_isFinite ha, isNaN_of_isFinite hb, isInf_of_isFinite ha, isInf_of_isFinite hb]

theorem fmul_finite (ha : isFinite a = true) (hb : isFinite b = true) :
    fmul k a b = packF (fsign a != fsign b) (roundMag (scaledMag (fmag a) * scaledMag (fmag b)) (2 ^ 149)) := by
  simp [fmul, isNaN_of_isFinite ha, isNaN_of_isFinite hb, isInf_of_isFinite ha, isInf_of_isFinite hb]

theorem fdiv_finite (ha : isFinite a = true) (hb : isFinite b = true) (hz : isZero b = false) :
    fdiv k a b = packF (fsign a != fsign b) (roundMag (scaledMag (fmag a) * 2 ^ 149) (scaledMag (fmag b))) := by
  simp [fdiv, isNaN_of_isFinite ha, isNaN_of_isFinite hb, isInf_of_isFinite ha, isInf_of_isFinite hb, hz]

theorem fdiv_zero (ha : isFinite a = true) (hz : isZero a = false) (hb : isZero b = true) :
    fdiv k a b = packF (fsign a != fsign b) infMag := by
  have hf : isFinite b = true := isFinite_iff.2 (by rw [isZero_iff.1 hb]; decide)
  simp [fdiv, isNaN_of_isFinite ha, isNaN_of_isFinite hf, isInf_of_isFinite ha, isInf_of_isFinite hf, hz, hb]

theorem fadd_inf_left (ha : isInf a = true) (hb : isNaN b = false) (h : isInf b = true → fsign a = fsign b) :
    fadd k a b = a := by
  by_cases hi : isInf b = true
  · simp [fadd, isNaN_of_isInf ha, hb, ha, hi, h hi]
  · simp [fadd, isNaN_of_isInf ha, hb, ha, hi]

theorem fadd_inf_right (ha : isFinite a = true) (hb : isInf b = true) : fadd k a b = b := by
  simp [fadd, isNaN_of_isFinite ha, isNaN_of_isInf hb, isInf_of_isFinite ha, hb]

theorem fmul_inf_left (ha : isInf a = true) (hb : isNaN b = false) (hz : isZero b = false) :
    fmul k a b = packF (fsign a != fsign b) infMag := by
  simp [fmul, isNaN_of_isInf ha, hb, ha, isZero_of_isInf ha, hz]

theorem fdiv_inf_left (ha : isInf a = true) (hb : isFinite b = true) :
    fdiv k a b = packF (fsign a != fsign b) infMag := by
  simp [fdiv, isNaN_of_isInf ha, isNaN_of_isFinite hb, ha, isInf_of_isFinite hb]

theorem fdiv_inf_right (ha : isFinite a = true) (hb : isInf b = true) :
    fdiv k a b = packF (fsign a != fsign b) 0 := by
  simp [fdiv, isNaN_of_isFinite ha, isNaN_of_isInf hb, isInf_of_isFinite ha, hb]

/-- `inf - inf` is the only sum of numbers that is none. -/
theorem isNaN_fadd : isNaN (fadd k a b) = true ↔
    isNaN a = true ∨ isNaN b = true ∨ (isInf a = true ∧ isInf b = true ∧ fsign a ≠ fsign b) := by
  by_cases hn : isNaN a = true ∨ isNaN b = true
  · rw [fadd_nan k hn, isNaN_quietNaN]
    tauto
  · obtain ⟨na, nb⟩ := not_or.1 hn
    simp only [fadd, na, nb, Bool.or_self, Bool.false_eq_true, if_false, false_or]
    split
    · split <;> simp_all [isNaN_quietNaN]
    · split
      · simp_all
      · split <;> simp_all [isNaN_packF, isNaN_packF_roundMag]

theorem isNaN_fsub : isNaN (fsub k a b) = true ↔
    isNaN a = true ∨ isNaN b = true ∨ (isInf a = true ∧ isInf b = true ∧ fsign a = fsign b) := by
  rw [fsub, isNaN_fadd, isNaN_fneg, isInf_fneg, fsign_fneg]
  simp

/-- `inf * 0` is the only product of numbers that is none. -/
theorem isNaN_fmul : isNaN (fmul k a b) = true ↔ isNaN a = true ∨ isNaN b = true ∨
    (isInf a = true ∧ isZero b = true) ∨ (isZero a = true ∧ isInf b = true) := by
  by_cases hn : isNaN a = true ∨ isNaN b = true
  · rw [fmul_nan k hn, isNaN_quietNaN]
    tauto
  · obtain ⟨na, nb⟩ := not_or.1 hn
    have za := isZero_of_isInf (a := a)
    have zb := isZero_of_isInf (a := b)
    simp only [fmul, na, nb, Bool.or_self, Bool.false_eq_true, if_false, false_or]
    split
    · split <;> simp_all [isNaN_quietNaN, isNaN_packF]
      grind
    · simp_all [isNaN_packF_roundMag]

/-- `inf / inf` and `0 / 0` are the only quotients of numbers that are none. -/
theorem isNaN_fdiv : isNaN (fdiv k a b) = true ↔ isNaN a = true ∨ isNaN b = true ∨
    (isInf a = true ∧ isInf b = true) ∨ (isZero a = true ∧ isZero b = true) := by
  by_cases hn : isNaN a = true ∨ isNaN b = true
  · rw [fdiv_nan k hn, isNaN_quietNaN]
    tauto
  · obtain ⟨na, nb⟩ := not_or.1 hn
    have za := isZero_of_isInf (a := a)
    have zb := isZero_of_isInf (a := b)
    simp only [fdiv, na, nb, Bool.or_self, Bool.false_eq_true, if_false, false_or]
    split
    · split <;> simp_all [isNaN_quietNaN, isNaN_packF]
    · split
      · simp_all [isNaN_packF]
      · split
        · split <;> simp_all [isNaN_quietNaN, isNaN_packF]
        · simp_all [isNaN_packF_roundMag]

end operations

/-! ## Rounded sums (R14) -/

/-- Sign of an exact zero sum: the `-0` that a sum of two `-0` is, else `+0`. -/
theorem packF_zero_sum {a b : F32} (h : fval a + fval b = 0) :
    packF (fsign a && fsign b) 0 = if a = negZero ∧ b = negZero then negZero else posZero := by
  by_cases hs : fsign a = true ∧ fsign b = true
  · obtain ⟨sa, sb⟩ := hs
    have h0 : fval a = 0 ∧ fval b = 0 := by
      simp only [fval, sa, sb, if_true] at h ⊢
      omega
    have neg : ∀ c : F32, fsign c = true → fval c = 0 → c = negZero := fun c sc hc => by
      rcases isZero_cases (fval_eq_zero.1 hc) with rfl | rfl
      · exact absurd sc (by decide)
      · rfl
    rw [if_pos ⟨neg a sa h0.1, neg b sb h0.2⟩, sa, sb]
    decide
  · have hne : ¬(a = negZero ∧ b = negZero) := by
      rintro ⟨rfl, rfl⟩
      exact hs (by decide)
    rw [if_neg hne, Bool.and_eq_false_iff.2 (by simpa [imp_iff_not_or] using hs)]
    decide

theorem fadd_rounded (k : Nat) {a b : F32} (ha : isFinite a = true) (hb : isFinite b = true) :
    RoundedSum (fval a + fval b) (if a = negZero ∧ b = negZero then negZero else posZero) (fadd k a b) := by
  rw [RoundedSum, fadd_finite k ha hb]
  split
  · exact packF_zero_sum ‹_›
  · exact ⟨_, roundMag_nearest _ Nat.one_pos, rfl⟩

theorem fsub_rounded (k : Nat) {a b : F32} (ha : isFinite a = true) (hb : isFinite b = true) :
    RoundedSum (fval a - fval b) (if a = negZero ∧ b = posZero then negZero else posZero) (fsub k a b) := by
  have h := fadd_rounded k ha ((isFinite_fneg b).trans hb)
  rw [fsub]
  simpa only [fval_fneg, fneg_eq_negZero, ← sub_eq_add_neg] using h

/-! ## Comparisons (R11) -/

/-- Patterns are ordered as the values they stand for, an infinity as `2^277`. -/
theorem orderKey_lt_iff {a b : F32} : orderKey a < orderKey b ↔ fval a < fval b := by
  have hab := scaledMag_strictMono.lt_iff_lt (a := fmag a) (b := fmag b)
  have hba := scaledMag_strictMono.lt_iff_lt (a := fmag b) (b := fmag a)
  have ha := scaledMag_eq_zero (m := fmag a)
  have hb := scaledMag_eq_zero (m := fmag b)
  unfold orderKey fval
  cases fsign a <;> cases fsign b <;> simp only [Bool.false_eq_true, if_true, if_false] <;> omega

theorem orderKey_le_iff {a b : F32} : orderKey a ≤ orderKey b ↔ fval a ≤ fval b := by
  simpa only [not_lt] using not_congr (orderKey_lt_iff (a := b) (b := a))

theorem orderKey_eq_iff {a b : F32} : orderKey a = orderKey b ↔ fval a = fval b := by
  rw [le_antisymm_iff, le_antisymm_iff, orderKey_le_iff, orderKey_le_iff]

theorem ordered_iff {a b : F32} : ordered a b = true ↔ isNaN a = false ∧ isNaN b = false := by
  simp [ordered]

theorem flt_iff {a b : F32} : flt a b = true ↔ isNaN a = false ∧ isNaN b = false ∧ fval a < fval b := by
  rw [flt, Bool.and_eq_true, ordered_iff, decide_eq_true_iff, orderKey_lt_iff, and_assoc]

theorem fle_iff {a b : F32} : fle a b = true ↔ isNaN a = false ∧ isNaN b = false ∧ fval a ≤ fval b := by
  rw [fle, Bool.and_eq_true, ordered_iff, decide_eq_true_iff, orderKey_le_iff, and_assoc]

theorem feq_iff {a b : F32} : feq a b = true ↔ isNaN a = false ∧ isNaN b = false ∧ fval a = fval b := by
  rw [feq, Bool.and_eq_true, ordered_iff, decide_eq_true_iff, orderKey_eq_iff, and_assoc]

/-! ## Rounding to an integer (R16) -/

theorem roundI_of_not_finite {a : F32} (h : isFinite a = false) : roundI a = none := by
  simp [roundI, h]

/-- `round_i` answers a nearest integer, of two the one farther from zero. -/
theorem roundI_nearest {a : F32} (h : isFinite a = true) :
    ∃ i : Int, roundI a = some i ∧ 2 * (i * 2 ^ 149 - fval a).natAbs ≤ 2 ^ 149 ∧
      (2 * (i * 2 ^ 149 - fval a).natAbs = 2 ^ 149 → (fval a).natAbs < (i * 2 ^ 149).natAbs) := by
  rw [roundI, if_pos h]
  refine ⟨_, rfl, ?_⟩
  unfold fval
  cases fsign a <;> simp only [Bool.false_eq_true, if_true, if_false] <;> omega

/-- A finite operand beside an infinite one. -/
theorem operations_inf_finite (k : Nat) {a b : F32} (ha : isInf a = true) (hb : isFinite b = true) :
    fadd k a b = a ∧ fadd k b a = a ∧ fsub k a b = a ∧ fsub k b a = fneg a ∧
      fdiv k a b = packF (fsign a != fsign b) infMag ∧ fdiv k b a = packF (fsign b != fsign a) 0 := by
  have nb := isNaN_of_isFinite hb
  have ib := isInf_of_isFinite hb
  exact ⟨fadd_inf_left k ha nb (by simp [ib]), fadd_inf_right k hb ha,
    fadd_inf_left k ha ((isNaN_fneg b).trans nb) (by simp [isInf_fneg, ib]),
    fadd_inf_right k hb ((isInf_fneg a).trans ha), fdiv_inf_left k ha hb, fdiv_inf_right k hb ha⟩

theorem fsub_inf_inf (k : Nat) {a b : F32} (ha : isInf a = true) (hb : isInf b = true) (h : fsign a ≠ fsign b) :
    fsub k a b = a := by
  refine fadd_inf_left k ha ((isNaN_fneg b).trans (isNaN_of_isInf hb)) fun _ => ?_
  rw [fsign_fneg]
  exact Bool.eq_not.2 h

/-- Settles O27: rounding, the operations on finite numbers, with infinities, their NaNs, the comparisons, `round_i`. -/
theorem operationsAreTheRoundedExactResults : Obligations.OperationsAreTheRoundedExactResults := by
  refine ⟨fun n d hd => roundMag_nearest n hd, fun k a b ha hb => ?_, fun k a b => operations_inf_finite k,
    fun k a b ha hb => ⟨fun hs => fadd_inf_left k ha (isNaN_of_isInf hb) fun _ => hs, fsub_inf_inf k ha hb⟩,
    fun k a b ha nb zb => ⟨fmul_inf_left k ha nb zb, ?_⟩,
    fun k a b => ⟨isNaN_fadd k, isNaN_fsub k, isNaN_fmul k, isNaN_fdiv k⟩,
    fun a b => ⟨flt_iff, fle_iff, feq_iff⟩, fun a => ⟨roundI_of_not_finite, roundI_nearest⟩⟩
  · refine ⟨fadd_rounded k ha hb, fsub_rounded k ha hb, ⟨_, roundMag_nearest _ (by positivity), fmul_finite k ha hb⟩,
      fun hz => ⟨_, roundMag_nearest _ ?_, fdiv_finite k ha hb hz⟩, fun hb hz => fdiv_zero k ha hz hb⟩
    exact Nat.pos_of_ne_zero fun h0 => by simp [isZero_iff.2 (scaledMag_eq_zero.1 h0)] at hz
  · rw [binary32_mul, fmul_comm, fmul_inf_left k ha nb zb, bne_comm]

end Sys2Proof.Proofs
end

section
/-! PROOFS. The statements of spec/10_state.md: a step runs the decoded command (R22), which commands touch the filter
state (R23), the invariant of the block, and what reset leaves (R26 to R36). -/

namespace Sys2Proof.Proofs

open Sys2Proof Sys2Proof.Machine Sys2Proof.Claims

/-! ## The ways a step can go (R22, R67, R88) -/

theorem step_of_decoded {s : State} {w : CommandWord} {ws : List CommandWord} {i : Instr} (hb : s.busy = none)
    (hc : s.cmds = w :: ws) (hd : decode w = .ok i) : step s = exec i { s with cmds := ws } := by
  simp [step, hb, takeCommand_eq_some.2 ⟨ws, hc, rfl⟩, hd]

/-- A step that answers a next state goes on with a `PROC`, waits, rejects a word or executes a command. -/
theorem step_cases {s t : State} (h : step s = .next t) :
    (∃ p, s.busy = some p ∧ procResume p s = .next t) ∨
    (s.busy = none ∧ s.cmds = [] ∧ t = s) ∨
    (∃ w ws cause, s.busy = none ∧ s.cmds = w :: ws ∧ decode w = .error cause ∧
      t = reject (.illegalCommand cause) { s with cmds := ws }) ∨
    (∃ w ws i, s.busy = none ∧ s.cmds = w :: ws ∧ decode w = .ok i ∧ exec i { s with cmds := ws } = .next t) := by
  unfold step at h
  split at h
  next p hb => exact .inl ⟨p, hb, h⟩
  next hb =>
    split at h
    next hc =>
      cases h
      exact .inr (.inl ⟨hb, takeCommand_eq_none.1 hc, rfl⟩)
    next w s' htake =>
      obtain ⟨ws, hc, rfl⟩ := takeCommand_eq_some.1 htake
      split at h
      next cause hd =>
        cases h
        exact .inr (.inr (.inl ⟨w, ws, cause, hb, hc, hd, rfl⟩))
      next i hd => exact .inr (.inr (.inr ⟨w, ws, i, hb, hc, hd, h⟩))

/-- Settles O6: a word placed for fetching is the head of the command port, with no `PROC` in progress. -/
theorem stepRunsTheDecodedCommand : Obligations.StepRunsTheDecodedCommand := by
  refine ⟨fun s w ws i hb hc hd => step_of_decoded hb hc hd, fun s w i hd => ?_⟩
  have hcmds : (s.withFetchWord 128 w.toNat).cmds = w :: s.cmds := by
    simp [State.withFetchWord, Nat.mod_eq_of_lt w.isLt]
  exact step_of_decoded rfl hcmds hd

/-! ## A decoded command is well-formed (R17, R82) -/

/-- Every format answers a command behind a guard. -/
theorem wf_of_guarded {p : Prop} [Decidable p] {a i : Instr} {e : IllegalCause}
    (h : (if p then Except.ok a else Except.error e) = .ok i) (ha : a.wf = true) : i.wf = true := by
  split at h <;> cases h
  exact ha

/-- Only `PROC` has an operand that could be too large, and its count is read from a slot of 32 bits. -/
theorem decode_wf {w : CommandWord} {i : Instr} (h : decode w = .ok i) : i.wf = true := by
  unfold decode at h
  split at h
  next => -- `PROC`
    have hcount : decide (countFits (aField w).toNat) = true := decide_eq_true (aField w).isLt
    split at h
    case h_7 => cases h
    all_goals exact wf_of_guarded h hcount
  next => -- `SET_ENABLED`
    split at h
    case h_6 => cases h
    all_goals exact wf_of_guarded h rfl
  next => -- `SET_WET_GAMMA`
    split at h
    case h_4 => cases h
    all_goals exact wf_of_guarded h rfl
  next => -- `SET_LFO_FREQ`
    split at h
    case h_3 => cases h
    all_goals exact wf_of_guarded h rfl
  case h_17 => cases h -- an unknown opcode
  all_goals -- the opcodes of one unit
    split at h
    · exact wf_of_guarded h rfl
    · cases h

/-! ## One iteration of the `PROC` loop (R67, R87) -/

theorem popSide_eq_none {sc : Bool} {s : State} : popSide sc s = none ↔ sc = true ∧ s.in1 = [] := by
  cases sc with
  | false => simp [popSide]
  | true => cases h : s.in1 <;> simp [popSide, popIn1, h]

theorem popSide_eq_some {sc : Bool} {s t : State} {e : Option F32} :
    popSide sc s = some (e, t) ↔ ∃ es, e.isSome = sc ∧ s.in1 = e.toList ++ es ∧ t = { s with in1 := es } := by
  cases sc with
  | false =>
    cases e with
    | none => simpa [popSide] using eq_comm
    | some v => simp [popSide]
  | true => cases h : s.in1 <;> cases e <;> simp [popSide, popIn1, h, eq_comm]

/-- A loop with samples to go that answers a next state holds on `in0`, holds on `in1` with the sample it has popped, or
processes a sample and goes on. -/
theorem procLoop_succ_cases {u : UnitId} {sc : Bool} {n left : Nat} {s t : State}
    (h : procLoop u sc n (left + 1) s = .next t) :
    (s.in0 = [] ∧ t = { s with busy := some ⟨u, sc, n, left + 1, none⟩ }) ∨
    (∃ x xs, s.in0 = x :: xs ∧ sc = true ∧ s.in1 = [] ∧
      t = { s with in0 := xs, busy := some ⟨u, sc, n, left + 1, some x⟩ }) ∨
    (∃ x xs e es s' y, s.in0 = x :: xs ∧ e.isSome = sc ∧ s.in1 = e.toList ++ es ∧
      unitSample u e x { s with in0 := xs, in1 := es } = .ok (s', y) ∧
      procLoop u sc n left (pushOut y s') = .next t) := by
  unfold procLoop at h
  split at h
  next h0 =>
    cases h
    exact .inl ⟨popIn0_eq_none.1 h0, rfl⟩
  next x s1 h0 =>
    obtain ⟨xs, hin0, rfl⟩ := popIn0_eq_some.1 h0
    split at h
    next h1 =>
      obtain ⟨hsc, hin1⟩ := popSide_eq_none.1 h1
      cases h
      exact .inr (.inl ⟨x, xs, hin0, hsc, hin1, rfl⟩)
    next e s2 h1 =>
      obtain ⟨es, hsc, hin1, rfl⟩ := popSide_eq_some.1 h1
      split at h
      · cases h
      next s' y hu => exact .inr (.inr ⟨x, xs, e, es, s', y, hin0, hsc, hin1, hu, h⟩)

/-! ## Commands with a rejection: what they can answer -/

/-- `shelf_rederive` rejects, or commits a valid cutoff (R125). -/
theorem shelfRederive_cases (ty : Option ShelfType) (g c : F32) (s : State) :
    (∃ cause, shelfRederive ty g c s = reject (.invalidParameter cause) s) ∨
    (∃ t, ty = some t ∧ cutoffValid s.cfg c = true ∧ shelfRederive ty g c s = respondOk 0 (shelfCommit t g c s)) := by
  cases ty with
  | none => exact .inl ⟨.shelfType, rfl⟩
  | some t =>
    by_cases hc : cutoffValid s.cfg c = true
    · exact .inr ⟨t, rfl, hc, by simp [shelfRederive, hc]⟩
    · exact .inl ⟨.cutoff, by simp [shelfRederive, hc]⟩

/-- `SET_DIST_FUNC.DIST` rejects, or writes the curve of its code (R187). -/
theorem execSetDistFuncDist_cases {code : Word32} {s t : State} (h : execSetDistFuncDist code s = .next t) :
    t = reject (.invalidParameter .curve) s ∨
    (∃ f, curveOf code = some f ∧ t = respondOk 0 { s with dist := { s.dist with func := f } }) := by
  cases hf : curveOf code with
  | none => simp only [execSetDistFuncDist, hf] at h; cases h; exact .inl rfl
  | some f => simp only [execSetDistFuncDist, hf] at h; cases h; exact .inr ⟨f, rfl, rfl⟩

/-! ## The filter state (R23) -/

theorem shelfRederive_filterState (ty : Option ShelfType) (g c : F32) (s : State) :
    filterState (shelfRederive ty g c s) = filterState s ∧ (shelfRederive ty g c s).rvrb.bank = s.rvrb.bank := by
  obtain ⟨cause, h⟩ | ⟨t, -, -, h⟩ := shelfRederive_cases ty g c s <;> rw [h] <;> exact ⟨rfl, rfl⟩

/-- Settles O19: a parameter command writes parameters, `RESET_HIST.SEC` the two first entries of the list. -/
theorem parameterChangesKeepTheFilterState : Obligations.ParameterChangesKeepTheFilterState := by
  intro i s t hproc h
  cases i with
  | procSec | procShlf | procWah | procFlng | procDist | procRvrb => cases hproc
  | resetHistSec => cases h; exact ⟨fun hne => absurd rfl hne, rfl, rfl⟩
  | setTypeShlf | setGainShlf | setCutoffShlf =>
    cases h
    obtain ⟨hfilter, hbank⟩ := shelfRederive_filterState _ _ _ _
    exact ⟨fun _ => hfilter, congrArg (List.drop 2) hfilter, hbank⟩
  | setDistFuncDist =>
    obtain rfl | ⟨f, -, rfl⟩ := execSetDistFuncDist_cases h <;> exact ⟨fun _ => rfl, rfl, rfl⟩
  | setEnabledShlf | setEnabledWah | setEnabledFlng | setEnabledDist | setEnabledRvrb | setWetGammaFlng
  | setWetGammaDist | setWetGammaRvrb | setLfoFreqWah | setLfoFreqFlng | setTapsSec | setCutoffMinWah
  | setCutoffMaxWah | setDampWah | setBoostDist | setCombModeRvrb | setApModeRvrb =>
    cases h
    exact ⟨fun _ => rfl, rfl, rfl⟩

/-! ## The invariant (R25, R28, R61, R67, R127, R160) -/

/-- The invariant but for the `PROC` in progress: what has to hold while the loop of a `PROC` runs. -/
abbrev StorageInv (s : State) : Prop := State.Inv { s with busy := none }

theorem storageInv_of_inv {s : State} (hs : s.Inv) : StorageInv s := { hs with busy := nofun }

theorem StorageInv.idle {s : State} (hs : StorageInv s) (hb : s.busy = none) : s.Inv :=
  { hs with busy := fun _ hp => nomatch hb.symm.trans hp }

theorem StorageInv.hold {s : State} {p : Busy} (hs : StorageInv s) (hp : p.Ok s) :
    State.Inv { s with busy := some p } :=
  { hs with busy := fun _ hq => by cases hq; exact { hp with } }

/-- A sample moves entries through the rings of its unit and leaves the Shelving parameters and coefficients. -/
theorem unitSample_storageInv {u : UnitId} {e : Option F32} {x y : F32} {s t : State} (hs : StorageInv s)
    (h : unitSample u e x s = .ok (t, y)) : StorageInv t := by
  cases u with
  | sec => cases h; exact { hs with sec := secFilter_ok hs.sec _ _ _, busy := nofun }
  | shlf => cases h; exact { hs with shlf := { hs.shlf with }, busy := nofun }
  | wah => cases h; exact { hs with busy := nofun }
  | flng =>
    obtain ⟨f, w, hf, rfl, -⟩ := flngSample_eq_ok.1 h
    exact { hs with flng := flngFilter_ok hs.flng hf, busy := nofun }
  | dist =>
    obtain rfl : (distSample x s).1 = t := congrArg Prod.fst (Except.ok.inj h)
    rw [distSample_state]
    exact { hs with busy := nofun }
  | rvrb => cases h; exact { hs with bank := bankStep_ok hs.bank _ _ _, busy := nofun }

/-- A sample neither requests a rebuild nor performs one (R205, R208, R209). -/
theorem unitSample_dirty {u : UnitId} {e : Option F32} {x y : F32} {s t : State}
    (h : unitSample u e x s = .ok (t, y)) : t.rvrb.dirty = s.rvrb.dirty := by
  obtain ⟨-, -, -, -, -, -, -, hrvrb⟩ := unitSample_frame h
  rw [hrvrb]

/-- The loop of a `PROC` of at most `n` samples ends in the invariant: answered, or held in a way that makes sense. -/
theorem procLoop_inv {u : UnitId} {sc : Bool} {n left : Nat} {s t : State} (hn : countFits n)
    (hsc : sc = true → u = .wah) (hleft : left ≤ n) (hs : StorageInv s)
    (hdirty : u = .rvrb → s.rvrb.dirty = false) (h : procLoop u sc n left s = .next t) : t.Inv := by
  induction left generalizing s with
  | zero =>
    rw [procLoop_zero] at h
    cases h
    exact { hs with busy := nofun }
  | succ left ih =>
    obtain ⟨-, rfl⟩ | ⟨x, xs, -, rfl, -, rfl⟩ | ⟨x, xs, e, es, s', y, -, -, -, hu, hloop⟩ := procLoop_succ_cases h
    · exact hs.hold ⟨left.succ_pos, hleft, hn, hsc, nofun, hdirty⟩
    · exact StorageInv.hold (s := { s with in0 := xs }) { hs with busy := nofun }
        ⟨left.succ_pos, hleft, hn, hsc, fun _ => rfl, hdirty⟩
    · have hs' : StorageInv s' :=
        unitSample_storageInv (s := { s with in0 := xs, in1 := es }) { hs with busy := nofun } hu
      refine ih (s := pushOut y s') (by omega) { hs' with busy := nofun } (fun hr => ?_) hloop
      exact (unitSample_dirty hu).trans (hdirty hr)

theorem rvrbRefresh_storageInv {s t : State} (hs : StorageInv s) (h : rvrbRefresh s = .ok t) :
    StorageInv t ∧ t.rvrb.dirty = false := by
  unfold rvrbRefresh at h
  split at h
  · obtain ⟨bank, hbank, rfl⟩ := rvrbRebuild_eq_ok.1 h
    exact ⟨{ hs with bank := buildBank_ok hbank, busy := nofun }, rfl⟩
  · cases h
    exact ⟨hs, Bool.eq_false_of_not_eq_true ‹_›⟩

theorem shelfRederive_inv {s : State} (hs : s.Inv) (hb : s.busy = none) (ty : Option ShelfType) (g c : F32) :
    (shelfRederive ty g c s).Inv := by
  obtain ⟨cause, h⟩ | ⟨t, -, hc, h⟩ := shelfRederive_cases ty g c s <;> rw [h]
  · exact StorageInv.idle { hs with busy := nofun } hb
  · exact StorageInv.idle { hs with shlf := ⟨hc, rfl⟩, busy := nofun } hb

/-- A command taken while no `PROC` is in progress ends in the invariant: a `PROC` by its loop, a Shelving command by
its commit, every other one because it writes no size, no parameter or coefficient of `SHLF` and no ring, but for
`RESET_HIST.SEC`, whose fill keeps the capacity. -/
theorem exec_inv {i : Instr} {s t : State} (hwf : i.wf = true) (hb : s.busy = none) (hs : s.Inv)
    (h : exec i s = .next t) : t.Inv := by
  have proc : ∀ u sc n, decide (countFits n) = true → (sc = true → u = .wah) → u ≠ .rvrb →
      procLoop u sc n n s = .next t → t.Inv := fun _ _ _ hn hsc hu =>
    procLoop_inv (of_decide_eq_true hn) hsc le_rfl (storageInv_of_inv hs) (fun hr => absurd hr hu)
  have setter : StorageInv t → t.busy = s.busy → t.Inv := fun ht htb => ht.idle (htb.trans hb)
  cases i with
  | procSec | procShlf | procFlng | procDist => exact proc _ false _ hwf nofun (by decide) h
  | procWah => exact proc .wah _ _ hwf (fun _ => rfl) nofun h
  | procRvrb n =>
    simp only [exec, execProcRvrb] at h
    split at h
    · cases h
    next s' hr =>
      obtain ⟨hs', hclean⟩ := rvrbRefresh_storageInv (storageInv_of_inv hs) hr
      exact procLoop_inv (sc := false) (of_decide_eq_true hwf) nofun le_rfl hs' (fun _ => hclean) h
  | resetHistSec =>
    cases h
    have hsec := hs.sec
    refine setter { hs with sec := ⟨hsec.pos, hsec.fits, ?_, ?_⟩, busy := nofun } rfl
    · exact (ringFill_length _ _).trans hsec.xh
    · exact (ringFill_length _ _).trans hsec.yh
  | setTypeShlf | setGainShlf | setCutoffShlf =>
    cases h
    exact shelfRederive_inv hs hb _ _ _
  | setDistFuncDist =>
    obtain rfl | ⟨f, -, rfl⟩ := execSetDistFuncDist_cases h <;> exact setter { hs with busy := nofun } rfl
  | setEnabledShlf | setEnabledWah | setEnabledFlng | setEnabledDist | setEnabledRvrb | setWetGammaFlng
  | setWetGammaDist | setWetGammaRvrb | setLfoFreqWah | setLfoFreqFlng | setTapsSec | setCutoffMinWah
  | setCutoffMaxWah | setDampWah | setBoostDist | setCombModeRvrb | setApModeRvrb =>
    cases h
    exact setter
      { hs with sec := { hs.sec with }, shlf := { hs.shlf with }, flng := { hs.flng with }, busy := nofun } rfl

/-- Settles O17: a step goes on with a `PROC`, waits, rejects or executes; each keeps the invariant. -/
theorem stepKeepsTheInvariant : Obligations.StepKeepsTheInvariant := by
  intro s t hs h
  obtain ⟨p, hp, h⟩ | ⟨-, -, rfl⟩ | ⟨w, ws, cause, hb, -, -, rfl⟩ | ⟨w, ws, i, hb, -, hd, h⟩ := step_cases h
  · have hok := hs.busy p hp
    exact procLoop_inv (s := { s with in0 := p.x.toList ++ s.in0 }) hok.count hok.side hok.left_le
      { hs with busy := nofun } hok.built h
  · exact hs
  · exact StorageInv.idle { hs with busy := nofun } hb
  · exact exec_inv (s := { s with cmds := ws }) (decode_wf hd) hb (StorageInv.idle { hs with busy := nofun } hb) h

/-! ## Reset (R26 to R32, R36, R240, R241) -/

/-- The state right after reset, by what the checks of R241 find: the Shelving type, the curve, the bank built and the
Flanger's capacity. -/
def resetState (cfg : Cfg) (k : Nat) (ty : ShelfType) (f : Curve) (bank : Bank) (cap : Nat) : State :=
  { cfg := cfg, sec := secReset cfg, shlf := shlfReset cfg ty, wah := wahReset cfg, flng := flngReset cfg cap,
    dist := distReset cfg f, rvrb := rvrbReset cfg bank, in0 := [], in1 := [], out := [], cmds := [], resp := [],
    busy := none, draws := k + rebuildDraws }

theorem capacity_of_cfgSizesOk {cfg : Cfg} (h : cfgSizesOk cfg = true) :
    ∃ cap : Nat, flngCapacity cfg = some (cap : Int) ∧ 1 ≤ cap ∧ cap ≤ cfg.capmax := by
  simp only [cfgSizesOk, Bool.and_eq_true, sizeWithin_iff] at h
  obtain ⟨d, hd, h1, h2⟩ : ∃ d : Int, flngCapacity cfg = some d ∧ 1 ≤ d ∧ d ≤ cfg.capmax := by tauto
  lift d to Nat using by omega
  exact ⟨d, hd, by omega, by omega⟩

theorem secD_of_cfgSizesOk {cfg : Cfg} (h : cfgSizesOk cfg = true) : 1 ≤ cfg.secD ∧ cfg.secD ≤ cfg.dmax := by
  simp only [cfgSizesOk, Bool.and_eq_true, decide_eq_true_eq] at h
  tauto

/-- A configuration with a reset state has passed the checks of R241, its bank has been built, and the state is
`resetState` of what they found. -/
theorem eq_resetState_of_resetOf {cfg : Cfg} {k : Nat} {s : State} (h : resetOf cfg k = .ok s) :
    ∃ ty f bank, ∃ cap : Nat, cfgSizesOk cfg = true ∧ shelfTypeOf cfg.shlfInit.shelfType = some ty ∧
      cutoffValid cfg cfg.shlfInit.cutoff = true ∧ curveOf cfg.distInit.func = some f ∧
      buildBank cfg cfg.rvrbInit.combMode cfg.rvrbInit.apMode k = .ok bank ∧
      flngCapacity cfg = some (cap : Int) ∧ 1 ≤ cap ∧ cap ≤ cfg.capmax ∧ s = resetState cfg k ty f bank cap := by
  unfold resetOf at h
  split at h
  case isFalse => cases h
  case isTrue hs =>
    split at h
    · cases h
    next ty ht =>
      split at h
      case isFalse => cases h
      case isTrue hc =>
        split at h
        · cases h
        next f hf =>
          split at h
          · cases h
          next bank hb =>
            obtain ⟨cap, hcap, hpos, hfits⟩ := capacity_of_cfgSizesOk hs
            cases h
            refine ⟨ty, f, bank, cap, hs, ht, hc, hf, hb, hcap, hpos, hfits, ?_⟩
            simp [resetState, hcap]

/-- Settles O13: each register is read off `resetState`, and what the checks found gives type, curve, bank and `CAP`. -/
theorem resetGivesTheListedValues : Obligations.ResetGivesTheListedValues := by
  intro cfg k s h
  obtain ⟨ty, f, bank, cap, -, hty, -, hf, hbank, hcap, -, -, rfl⟩ := eq_resetState_of_resetOf h
  exact ⟨rfl, ⟨hty.symm, rfl, rfl, rfl, rfl, rfl, rfl⟩, rfl, ⟨hcap, rfl, rfl, rfl, rfl, rfl⟩, ⟨hf.symm, rfl, rfl, rfl⟩,
    ⟨rfl, rfl, rfl, rfl, rfl, hbank⟩, ⟨rfl, rfl, rfl⟩, rfl, rfl, rfl, rfl⟩

/-- Settles O15: the checks at reset are the clauses of the invariant, and the rings are made with their capacity. -/
theorem resetMeetsTheInvariant : Obligations.ResetMeetsTheInvariant := by
  intro cfg k s h
  obtain ⟨ty, f, bank, cap, hsizes, -, hcutoff, -, hbank, hcap, hpos, hfits, rfl⟩ := eq_resetState_of_resetOf h
  obtain ⟨hd, hd'⟩ := secD_of_cfgSizesOk hsizes
  exact
    { cfg := hsizes
      sec := Section.Ok.secNew _ _ _ hd hd'
      secD := rfl
      shlf := ⟨hcutoff, rfl⟩
      flng := ⟨hcap, hpos, hfits, List.length_replicate⟩
      bank := buildBank_ok hbank
      busy := nofun }

theorem eq_ok_toOption_get {ε α : Type} {e : Except ε α} (h : e.toOption.isSome = true) :
    e = .ok (e.toOption.get h) := by
  cases e with
  | ok a => rfl
  | error why => cases h

/-- Settles O16: `State.reset` is by definition the state that reset yields, so O15 speaks of it. -/
theorem stateResetMeetsTheInvariant : Obligations.StateResetMeetsTheInvariant := by
  have h : resetOf Config.cfg0 0 = .ok State.reset := eq_ok_toOption_get _
  exact ⟨h, resetMeetsTheInvariant _ _ _ h⟩

end Sys2Proof.Proofs
end

section
/-! PROOFS. The statements of spec/20_memory.md: the block waits on an empty stream (R67, R232, R242), a `PROC`
conserves samples (R68), holds where they run out and goes on as if they had been there before (R66, R67), and commands
keep to their own unit (R66, R76). -/

namespace Sys2Proof.Proofs

open Sys2Proof Sys2Proof.Machine Sys2Proof.Claims

/-! ## `PROC` as a command: its start and its loop (R87, R207) -/

/-- A `PROC` that has a meaning at its start is its loop from there. -/
theorem exec_procCommand_of_started {u : UnitId} {sc : Bool} {s s₀ : State} (n : Nat) (hsc : sc = true → u = .wah)
    (h : started u s = .ok s₀) : exec (procCommand u n sc) s = procLoop u sc n n s₀ := by
  cases u with
  | wah => cases h; rfl
  | rvrb =>
    obtain rfl : sc = false := Bool.eq_false_of_not_eq_true fun h' => nomatch hsc h'
    have h : rvrbRefresh s = .ok s₀ := h
    simp [procCommand, exec, execProcRvrb, h]
  | sec | shlf | flng | dist =>
    obtain rfl : sc = false := Bool.eq_false_of_not_eq_true fun h' => nomatch hsc h'
    cases h
    rfl

/-- A `PROC` whose pending rebuild has no meaning faults (R206). -/
theorem exec_procCommand_of_error {u : UnitId} {s : State} {why : NoMeaning} (n : Nat) (sc : Bool)
    (h : started u s = .error why) : exec (procCommand u n sc) s = .fault (faultOf why) := by
  cases u with
  | rvrb =>
    have h : rvrbRefresh s = .error why := h
    simp [procCommand, exec, execProcRvrb, h]
  | sec | shlf | wah | flng | dist => cases h

theorem exec_procCommand_eq_next {u : UnitId} {n : Nat} {sc : Bool} {s t : State} (hsc : sc = true → u = .wah)
    (h : exec (procCommand u n sc) s = .next t) :
    ∃ s₀, started u s = .ok s₀ ∧ procLoop u sc n n s₀ = .next t := by
  cases hs : started u s with
  | error why => rw [exec_procCommand_of_error n sc hs] at h; cases h
  | ok s₀ => exact ⟨s₀, rfl, exec_procCommand_of_started n hsc hs ▸ h⟩

/-- The `PROC` commands are those `procCommand` names, with a side-chain on `WAH` only. -/
theorem exists_procCommand {i : Instr} (h : i.isProc = true) :
    ∃ u n sc, (sc = true → u = .wah) ∧ i = procCommand u n sc := by
  cases i with
  | procSec n => exact ⟨.sec, n, false, nofun, rfl⟩
  | procShlf n => exact ⟨.shlf, n, false, nofun, rfl⟩
  | procWah n sc => exact ⟨.wah, n, sc, fun _ => rfl, rfl⟩
  | procFlng n => exact ⟨.flng, n, false, nofun, rfl⟩
  | procDist n => exact ⟨.dist, n, false, nofun, rfl⟩
  | procRvrb n => exact ⟨.rvrb, n, false, nofun, rfl⟩
  | _ => cases h

theorem procCommand_unit (u : UnitId) (n : Nat) (sc : Bool) : (procCommand u n sc).unit = u := by cases u <;> rfl

/-- What a `PROC` does before its first sample is nothing, or the rebuild of the Reverb's sections (R205, R207). -/
theorem started_cases {u : UnitId} {s s₀ : State} (h : started u s = .ok s₀) :
    s₀ = s ∨ (u = .rvrb ∧ ∃ bank, s₀ =
      { s with rvrb := { s.rvrb with bank := bank, dirty := false }, draws := s.draws + 11 }) := by
  cases u with
  | rvrb =>
    simp only [started, rvrbRefresh] at h
    split at h
    · obtain ⟨bank, -, h⟩ := rvrbRebuild_eq_ok.1 h
      exact .inr ⟨rfl, bank, h⟩
    · cases h
      exact .inl rfl
  | sec | shlf | wah | flng | dist => cases h; exact .inl rfl

/-! ## Registers apart from the streams -/

/-- The registers and ports of `s` between the streams and the `PROC` in progress of `q`. -/
def withIO (q s : State) : State := { s with in0 := q.in0, in1 := q.in1, out := q.out, busy := q.busy }

/-- Where the streams are, and whether a `PROC` holds, makes no difference to what a sample does to the registers. -/
theorem unitSample_withIO (u : UnitId) (e : Option F32) (x : F32) (q s : State) :
    unitSample u e x (withIO q s) = (unitSample u e x s).map fun r => (withIO q r.1, r.2) := by
  refine (unitSample_streams u e x s q.in0 q.in1 q.out s.cmds s.resp q.busy).trans ?_
  cases hu : unitSample u e x s with
  | error why => rfl
  | ok r =>
    obtain ⟨⟨-, -, -, -, hcmds, hresp, -⟩, -⟩ := unitSample_frame hu
    simp [Except.map, withIO, hcmds, hresp]

/-- Nor to the rebuild that comes before the first sample. -/
theorem started_withIO (u : UnitId) (q s : State) : started u (withIO q s) = (started u s).map (withIO q) := by
  cases u with
  | rvrb =>
    cases hdirty : s.rvrb.dirty with
    | false => simp [started, rvrbRefresh, withIO, hdirty, Except.map]
    | true =>
      cases hbank : buildBank s.cfg s.rvrb.combMode s.rvrb.apMode s.draws <;>
        simp [started, rvrbRefresh, rvrbRebuild, withIO, hdirty, hbank, Except.map]
  | sec | shlf | wah | flng | dist => rfl

/-- The rebuild leaves the streams and the `PROC` in progress. -/
theorem withIO_started {u : UnitId} {s s₀ : State} (h : started u s = .ok s₀) : withIO s s₀ = s₀ := by
  obtain rfl | ⟨-, bank, rfl⟩ := started_cases h <;> rfl

/-! ## The three ways an iteration of the loop can start (R67, R145) -/

/-- `in0` is empty, or a side-chain is asked for and `in1` is empty, or the samples of an iteration are there. -/
theorem nextSample_cases (sc : Bool) (q : State) :
    q.in0 = [] ∨ (∃ x xs, q.in0 = x :: xs ∧ sc = true ∧ q.in1 = []) ∨
    (∃ x xs, ∃ e : Option F32, ∃ es, q.in0 = x :: xs ∧ e.isSome = sc ∧ q.in1 = e.toList ++ es) := by
  cases h0 : q.in0 with
  | nil => exact .inl rfl
  | cons x xs =>
    cases hp : popSide sc q with
    | none => exact .inr (.inl ⟨x, xs, rfl, popSide_eq_none.1 hp⟩)
    | some r =>
      obtain ⟨es, hsc, h1, -⟩ := popSide_eq_some.1 (hp : _ = some (r.1, r.2))
      exact .inr (.inr ⟨x, xs, r.1, es, rfl, hsc, h1⟩)

section iteration
variable {u : UnitId} {sc : Bool} (n left : Nat) {x : F32} {xs es : List F32} {e : Option F32} {q : State} (s : State)
  (h0 : q.in0 = x :: xs) (hsc : e.isSome = sc) (h1 : q.in1 = e.toList ++ es)
include h0 hsc h1

theorem procLoop_sample {s' : State} {y : F32} (hu : unitSample u e x s = .ok (s', y)) :
    procLoop u sc n (left + 1) (withIO q s) =
      procLoop u sc n left (withIO (pushOut y { q with in0 := xs, in1 := es }) s') := by
  have hio := unitSample_withIO u e x { q with in0 := xs, in1 := es } s
  rw [hu] at hio
  subst hsc
  cases e with
  | none => subst h1; exact procLoop_cons u n left (s := withIO q s) h0 hio
  | some v => exact procLoop_cons_side u n left (s := withIO q s) h0 h1 hio

theorem procLoop_sample_error {why : NoMeaning} (hu : unitSample u e x s = .error why) :
    procLoop u sc n (left + 1) (withIO q s) = .fault (faultOf why) := by
  have hio := unitSample_withIO u e x { q with in0 := xs, in1 := es } s
  rw [hu] at hio
  subst hsc
  cases e with
  | none => subst h1; exact procLoop_cons_error u n left (s := withIO q s) h0 hio
  | some v => exact procLoop_cons_side_error u n left (s := withIO q s) h0 h1 hio

end iteration

/-- The loop does not look at what `busy` says. -/
theorem procLoop_busy (u : UnitId) (sc : Bool) (n left : Nat) (q s : State) (b : Option Busy) :
    procLoop u sc n left (withIO { q with busy := b } s) = procLoop u sc n left (withIO q s) := by
  induction left generalizing q s with
  | zero => rfl
  | succ left ih =>
    obtain h0 | ⟨x, xs, h0, rfl, h1⟩ | ⟨x, xs, e, es, h0, hsc, h1⟩ := nextSample_cases sc q
    · exact (procLoop_empty u sc n left (s := withIO { q with busy := b } s) h0).trans
        (procLoop_empty u sc n left (s := withIO q s) h0).symm
    · exact (procLoop_empty_side u n left (s := withIO { q with busy := b } s) h0 h1).trans
        (procLoop_empty_side u n left (s := withIO q s) h0 h1).symm
    · cases hu : unitSample u e x s with
      | error why =>
        rw [procLoop_sample_error n left s h0 hsc h1 hu,
          procLoop_sample_error n left s (q := { q with busy := b }) h0 hsc h1 hu]
      | ok r =>
        rw [procLoop_sample n left s h0 hsc h1 hu,
          procLoop_sample n left s (q := { q with busy := b }) h0 hsc h1 hu]
        exact ih (pushOut r.2 { q with in0 := xs, in1 := es }) r.1

/-! ## Waiting (R67, R232, R242) -/

theorem step_of_busy {s : State} {p : Busy} (hb : s.busy = some p) : step s = procResume p s := by simp [step, hb]

/-- Settles O8: with nothing to take a step is the identity; the loop of a `PROC` that finds its stream empty at once
writes back what `busy` says already. -/
theorem blockMakesNoStepWhileItWaits : Obligations.BlockMakesNoStepWhileItWaits := by
  refine fun s => ⟨fun hb hc => ?_, ?_, ?_⟩
  · simp [step, hb, takeCommand_eq_none.2 hc]
  · rintro ⟨u, sc, n, left, x⟩ hb hleft ⟨⟩ h0
    obtain ⟨left, rfl⟩ := Nat.exists_eq_add_one.2 hleft
    rw [step_of_busy hb]
    refine (procLoop_empty u sc n left (s := s) h0).trans ?_
    rw [← hb]
  · rintro ⟨u, sc, n, left, x⟩ v hb hleft ⟨⟩ ⟨⟩ h1
    obtain ⟨left, rfl⟩ := Nat.exists_eq_add_one.2 hleft
    rw [step_of_busy hb]
    refine (procLoop_empty_side u n left (s := { s with in0 := v :: s.in0 }) rfl h1).trans ?_
    rw [← hb]

/-! ## Commands and the registers of their unit (R66, R76) -/

/-- `s` with the registers of unit `u` taken from `a`. -/
def copyRegs (u : UnitId) (a s : State) : State :=
  { s with
    sec := if u = .sec then a.sec else s.sec
    shlf := if u = .shlf then a.shlf else s.shlf
    wah := if u = .wah then a.wah else s.wah
    flng := if u = .flng then a.flng else s.flng
    dist := if u = .dist then a.dist else s.dist
    rvrb := if u = .rvrb then a.rvrb else s.rvrb }

theorem copyRegs_self (u : UnitId) (s : State) : copyRegs u s s = s := by simp [copyRegs]

/-- No register belongs to two units. -/
theorem copyRegs_comm {u v : UnitId} (h : u ≠ v) (a b s : State) :
    copyRegs u a (copyRegs v b s) = copyRegs v b (copyRegs u a s) := by
  have apart : ∀ w, u = w → ¬ v = w := fun w hu hv => h (hu.trans hv.symm)
  simp only [copyRegs, ite_ite_comm _ _ _ _ (apart _)]

theorem copyRegs_respond (u : UnitId) (r : ResponseWord) (a s : State) :
    copyRegs u a (respond r s) = respond r (copyRegs u a s) := rfl

/-- What `shelf_rederive` answers and writes is determined by the configuration and its operands (R125). -/
theorem shelfRederive_local (ty : Option ShelfType) (g c : F32) (s : State) :
    ∃ r a, (.next (shelfRederive ty g c s) : Outcome) = .next (respond r a) ∧ ∀ b : State, b.cfg = s.cfg →
      (.next (shelfRederive ty g c (copyRegs .shlf s b)) : Outcome) = .next (respond r (copyRegs .shlf a b)) := by
  cases ty with
  | none => exact ⟨_, _, rfl, fun _ _ => rfl⟩
  | some t =>
    by_cases hc : cutoffValid s.cfg c = true
    · refine ⟨okWord 0, shelfCommit t g c s, congrArg _ (if_pos hc), fun b hb => congrArg _ ?_⟩
      simp [shelfRederive, copyRegs, hb, hc, respondOk, shelfCommit]
    · refine ⟨_, s, congrArg _ (if_neg hc), fun b hb => congrArg _ (if_neg ?_)⟩
      rwa [← hb] at hc

/-- A command that is not a `PROC` answers one word and writes registers of its unit; both are determined by the
configuration and the registers of its unit. -/
theorem exec_local {i : Instr} (hi : i.isProc = false) (s : State) :
    ∃ r a, exec i s = .next (respond r a) ∧ ∀ b : State, b.cfg = s.cfg →
      exec i (copyRegs i.unit s b) = .next (respond r (copyRegs i.unit a b)) := by
  cases i with
  | procSec | procShlf | procWah | procFlng | procDist | procRvrb => cases hi
  | setTypeShlf | setGainShlf | setCutoffShlf => exact shelfRederive_local _ _ _ s
  | setDistFuncDist code =>
    simp only [exec, execSetDistFuncDist]
    cases curveOf code with
    | none => exact ⟨_, _, rfl, fun _ _ => rfl⟩
    | some f => exact ⟨_, _, rfl, fun _ _ => rfl⟩
  | setEnabledShlf | setEnabledWah | setEnabledFlng | setEnabledDist | setEnabledRvrb | setWetGammaFlng
  | setWetGammaDist | setWetGammaRvrb | setLfoFreqWah | setLfoFreqFlng | setTapsSec | resetHistSec | setCutoffMinWah
  | setCutoffMaxWah | setDampWah | setBoostDist | setCombModeRvrb | setApModeRvrb =>
    exact ⟨_, _, rfl, fun _ _ => rfl⟩

/-- So such a command answers the state itself, but for the registers of its unit and one response. -/
theorem exec_eq_next_of_not_isProc {i : Instr} (hi : i.isProc = false) {s t : State} (h : exec i s = .next t) :
    ∃ r a, t = respond r (copyRegs i.unit a s) := by
  obtain ⟨r, a, -, hlocal⟩ := exec_local hi s
  have hs := hlocal s rfl
  rw [copyRegs_self, h] at hs
  exact ⟨r, a, Host.Outcome.next.inj hs⟩

/-- A command finds the registers of its unit as they were before one to another unit. -/
theorem exec_after_other {u : UnitId} {j : Instr} {q : ResponseWord} {b s : State} (h : u ≠ j.unit)
    (hj : ∀ c : State, c.cfg = s.cfg → exec j (copyRegs j.unit s c) = .next (respond q (copyRegs j.unit b c)))
    (r : ResponseWord) (a : State) :
    exec j (respond r (copyRegs u a s)) = .next (respond q (respond r (copyRegs j.unit b (copyRegs u a s)))) := by
  have hafter := hj (respond r (copyRegs u a s)) rfl
  rwa [copyRegs_respond, ← copyRegs_comm h, copyRegs_self, copyRegs_respond] at hafter

theorem respond_respond (q r : ResponseWord) (s : State) :
    respond q (respond r s) = { s with resp := s.resp ++ [r, q] } := by simp [respond]

/-- Settles O21: each command reads registers that the other one does not write. -/
theorem commandsToDifferentUnitsCommute : Obligations.CommandsToDifferentUnitsCommute := by
  intro i j s hi hj hij
  obtain ⟨r, a, -, hilocal⟩ := exec_local hi s
  obtain ⟨q, b, -, hjlocal⟩ := exec_local hj s
  refine ⟨respond r (copyRegs i.unit a s), respond q (copyRegs j.unit b s), copyRegs j.unit b (copyRegs i.unit a s),
    r, q, ?_, ?_, ?_, ?_⟩
  · rw [← hilocal s rfl, copyRegs_self]
  · rw [← hjlocal s rfl, copyRegs_self]
  · rw [exec_after_other hij hjlocal, respond_respond]
    rfl
  · rw [exec_after_other hij.symm hilocal, respond_respond, copyRegs_comm hij]
    rfl

/-- `t` has the configuration, the waiting commands and, but for unit `u`, the registers of `s`. -/
structure ReachesOnly (u : UnitId) (s t : State) : Prop where
  cfg : t.cfg = s.cfg
  cmds : t.cmds = s.cmds
  sec : u ≠ .sec → t.sec = s.sec
  shlf : u ≠ .shlf → t.shlf = s.shlf
  wah : u ≠ .wah → t.wah = s.wah
  flng : u ≠ .flng → t.flng = s.flng
  dist : u ≠ .dist → t.dist = s.dist
  rvrb : u ≠ .rvrb → t.rvrb = s.rvrb

theorem ReachesOnly.trans {u : UnitId} {s t r : State} (h : ReachesOnly u s t) (h' : ReachesOnly u t r) :
    ReachesOnly u s r where
  cfg := h'.cfg.trans h.cfg
  cmds := h'.cmds.trans h.cmds
  sec hu := (h'.sec hu).trans (h.sec hu)
  shlf hu := (h'.shlf hu).trans (h.shlf hu)
  wah hu := (h'.wah hu).trans (h.wah hu)
  flng hu := (h'.flng hu).trans (h.flng hu)
  dist hu := (h'.dist hu).trans (h.dist hu)
  rvrb hu := (h'.rvrb hu).trans (h.rvrb hu)

theorem copyRegs_reachesOnly (u : UnitId) (r : ResponseWord) (a s : State) :
    ReachesOnly u s (respond r (copyRegs u a s)) :=
  ⟨rfl, rfl, fun h => if_neg h, fun h => if_neg h, fun h => if_neg h, fun h => if_neg h, fun h => if_neg h,
    fun h => if_neg h⟩

theorem unitSample_reachesOnly {u : UnitId} {e : Option F32} {x y : F32} {s t : State}
    (h : unitSample u e x s = .ok (t, y)) : ReachesOnly u s t := by
  obtain ⟨⟨hcfg, -, -, -, hcmds, -⟩, hsec, hshlf, hwah, hflng, hdist, hrvrb, -⟩ := unitSample_frame h
  exact ⟨hcfg, hcmds, hsec, hshlf, hwah, hflng, fun _ => hdist, hrvrb⟩

theorem started_reachesOnly {u : UnitId} {s s₀ : State} (h : started u s = .ok s₀) : ReachesOnly u s s₀ := by
  obtain rfl | ⟨rfl, bank, rfl⟩ := started_cases h
  · exact ⟨rfl, rfl, fun _ => rfl, fun _ => rfl, fun _ => rfl, fun _ => rfl, fun _ => rfl, fun _ => rfl⟩
  · exact ⟨rfl, rfl, fun _ => rfl, fun _ => rfl, fun _ => rfl, fun _ => rfl, fun _ => rfl, fun h => absurd rfl h⟩

theorem procLoop_reachesOnly {u : UnitId} {sc : Bool} {n left : Nat} {s₀ s t : State} (hs : ReachesOnly u s₀ s)
    (h : procLoop u sc n left s = .next t) : ReachesOnly u s₀ t :=
  procLoop_keeps (P := ReachesOnly u s₀) sc n (fun _ _ hs => { hs with }) (fun _ _ hs => { hs with })
    (fun _ _ _ _ _ hs hu => hs.trans (unitSample_reachesOnly hu)) (fun _ _ hs => { hs with })
    (fun _ _ hs => { hs with }) (fun _ hs => { hs with }) left hs h

/-! ## The streams of a `PROC` (R66, R68, R87) -/

/-- Every sample the loop pops from `in0` it pushes to `out`, but for one that waits; `in1` is popped for a side-chain
only. -/
theorem procLoop_streams {u : UnitId} {sc : Bool} {n left : Nat} {s t : State}
    (h : procLoop u sc n left s = .next t) :
    t.out.length + t.in0.length + waiting t = s.out.length + s.in0.length ∧ (∃ ys, t.out = s.out ++ ys) ∧
      (sc = false → t.in1 = s.in1) := by
  induction left generalizing s with
  | zero =>
    rw [procLoop_zero] at h
    cases h
    exact ⟨rfl, ⟨[], by simp⟩, fun _ => rfl⟩
  | succ left ih =>
    obtain ⟨-, rfl⟩ | ⟨x, xs, h0, rfl, -, rfl⟩ | ⟨x, xs, e, es, s', y, h0, hsc, h1, hu, hloop⟩ :=
      procLoop_succ_cases h
    · exact ⟨rfl, ⟨[], by simp⟩, fun _ => rfl⟩
    · exact ⟨by simp [waiting, h0, Nat.add_assoc], ⟨[], by simp⟩, nofun⟩
    · obtain ⟨⟨-, hin0, hin1, hout, -⟩, -⟩ := unitSample_frame hu
      obtain ⟨hcount, ⟨ys, hys⟩, hside⟩ := ih hloop
      simp only [pushOut_out, pushOut_in0, pushOut_in1, hin0, hin1, hout] at hcount hys hside
      refine ⟨?_, ⟨y :: ys, by simp [hys]⟩, fun hf => ?_⟩
      · simp only [List.length_append, List.length_singleton] at hcount
        simp only [h0, List.length_cons]
        omega
      · subst hf
        obtain rfl : e = none := Option.not_isSome_iff_eq_none.1 (by simp [hsc])
        exact (hside rfl).trans h1.symm

/-- Settles O20: a `PROC` by its loop, every other command because it writes registers of its unit only. -/
theorem commandsReachOnlyTheirOwnUnit : Obligations.CommandsReachOnlyTheirOwnUnit := by
  intro i s t h
  suffices hall : ReachesOnly i.unit s t ∧
      (i.isProc = false → t.in0 = s.in0 ∧ t.in1 = s.in1 ∧ t.out = s.out ∧ t.busy = s.busy ∧ t.draws = s.draws) ∧
      ((∀ n, i ≠ .procWah n true) → t.in1 = s.in1) by
    obtain ⟨⟨hcfg, hcmds, hsec, hshlf, hwah, hflng, hdist, hrvrb⟩, hstreams, hin1⟩ := hall
    exact ⟨hcfg, hcmds, hsec, hshlf, hwah, hflng, hdist, hrvrb, hstreams, hin1⟩
  cases hi : i.isProc with
  | false =>
    obtain ⟨r, a, rfl⟩ := exec_eq_next_of_not_isProc hi h
    exact ⟨copyRegs_reachesOnly _ _ _ _, fun _ => ⟨rfl, rfl, rfl, rfl, rfl⟩, fun _ => rfl⟩
  | true =>
    obtain ⟨u, n, sc, hsc, rfl⟩ := exists_procCommand hi
    obtain ⟨s₀, hs₀, hloop⟩ := exec_procCommand_eq_next hsc h
    rw [procCommand_unit]
    refine ⟨procLoop_reachesOnly (started_reachesOnly hs₀) hloop, nofun, fun hne => ?_⟩
    obtain ⟨-, -, hin1⟩ := procLoop_streams hloop
    rw [← withIO_started hs₀] at hin1
    refine hin1 (Bool.eq_false_of_not_eq_true fun hside => ?_)
    obtain rfl := hsc hside
    subst hside
    exact hne n rfl

/-- A sample that waits is the one a `PROC` that goes on pops again. -/
theorem waiting_of_busy {s : State} {p : Busy} (hb : s.busy = some p) : waiting s = p.x.toList.length := by
  cases hx : p.x <;> simp [waiting, hb, hx]

/-- Settles O10: a `PROC` by its loop; a step without one moves no sample. -/
theorem samplesOutEqualSamplesIn : Obligations.SamplesOutEqualSamplesIn := by
  intro s t h
  obtain ⟨p, hp, h⟩ | ⟨-, -, rfl⟩ | ⟨w, ws, cause, -, -, -, rfl⟩ | ⟨w, ws, i, hb, -, -, h⟩ := step_cases h
  · obtain ⟨hcount, hout, -⟩ := procLoop_streams h
    refine ⟨?_, hout⟩
    simp only [List.length_append] at hcount
    rw [waiting_of_busy hp]
    omega
  · exact ⟨rfl, [], by simp⟩
  · exact ⟨rfl, [], by simp⟩
  · cases hi : i.isProc with
    | false =>
      obtain ⟨r, a, rfl⟩ := exec_eq_next_of_not_isProc hi h
      exact ⟨rfl, [], by simp [copyRegs]⟩
    | true =>
      obtain ⟨u, n, sc, hsc, rfl⟩ := exists_procCommand hi
      obtain ⟨s₀, hs₀, hloop⟩ := exec_procCommand_eq_next hsc h
      obtain ⟨hcount, hout, -⟩ := procLoop_streams hloop
      rw [← withIO_started hs₀] at hcount hout
      have hwait : waiting s = 0 := by simp [waiting, hb]
      exact ⟨hcount.trans (by rw [hwait]; rfl), hout⟩

/-! ## Supplying while a `PROC` holds (R66, R67) -/

/-- What the host supplies to both streams. -/
abbrev supply (xs es : List F32) (s : State) : State := hostSupply0 xs (hostSupply1 es s)

/-- A loop that holds, supplied and resumed, ends as it would have ended with the samples there at once. -/
theorem procResume_supply {u : UnitId} {sc : Bool} {n left : Nat} {q s t : State} {p : Busy} (xs es : List F32)
    (h : procLoop u sc n left (withIO q s) = .next t) (hp : t.busy = some p) :
    procResume p (supply xs es t) = procLoop u sc n left (withIO (supply xs es q) s) := by
  induction left generalizing q s with
  | zero =>
    rw [procLoop_zero] at h
    cases h
    cases hp
  | succ left ih =>
    obtain h0 | ⟨x, xs', h0, rfl, h1⟩ | ⟨x, xs', e, es', h0, hsc, h1⟩ := nextSample_cases sc q
    · rw [procLoop_empty u sc n left (s := withIO q s) h0] at h
      cases h
      cases hp
      exact procLoop_busy u sc n (left + 1) (supply xs es q) s _
    · rw [procLoop_empty_side u n left (s := withIO q s) h0 h1] at h
      cases h
      cases hp
      refine (procLoop_busy u true n (left + 1) (supply xs es { q with in0 := x :: xs' }) s _).trans ?_
      rw [← h0]
    · have h0' : (supply xs es q).in0 = x :: (xs' ++ xs) := congrArg (· ++ xs) h0
      have h1' : (supply xs es q).in1 = e.toList ++ (es' ++ es) :=
        (congrArg (· ++ es) h1).trans (List.append_assoc _ _ _)
      cases hu : unitSample u e x s with
      | error why => rw [procLoop_sample_error n left s h0 hsc h1 hu] at h; cases h
      | ok r =>
        rw [procLoop_sample n left s h0 hsc h1 hu] at h
        rw [procLoop_sample n left s h0' hsc h1' hu]
        exact ih h

/-- Settles O12: the loop from the state after a pending rebuild, which does not look at the streams. -/
theorem supplyingWhileHeldIsSupplyingBefore : Obligations.SupplyingWhileHeldIsSupplyingBefore := by
  intro u n sc s t xs es hsc h hbusy
  obtain ⟨p, hp⟩ := Option.isSome_iff_exists.1 hbusy
  obtain ⟨s₀, hs₀, hloop⟩ := exec_procCommand_eq_next hsc h
  have hs₀' : started u (supply xs es s) = .ok (withIO (supply xs es s) s₀) := by
    have := started_withIO u (supply xs es s) s
    rw [hs₀] at this
    exact this
  rw [← withIO_started hs₀] at hloop
  calc step (supply xs es t) = procResume p (supply xs es t) := step_of_busy hp
    _ = procLoop u sc n n (withIO (supply xs es s) s₀) := procResume_supply xs es hloop hp
    _ = exec (procCommand u n sc) (supply xs es s) := (exec_procCommand_of_started n hsc hs₀').symm

/-! ## The samples there are, and where they run out (R67, R87, R145) -/

theorem runSamples_cons_eq_ok {u : UnitId} {e : Option F32} {x : F32} {ps : List (Option F32 × F32)} {s t : State}
    {ys : List F32} : runSamples u ((e, x) :: ps) s = .ok (t, ys) ↔
      ∃ s' y ys', unitSample u e x s = .ok (s', y) ∧ runSamples u ps s' = .ok (t, ys') ∧ ys = y :: ys' := by
  cases hu : unitSample u e x s with
  | error why => simp [runSamples, hu]
  | ok r => cases hr : runSamples u ps r.1 <;> simp [runSamples, hu, hr, Prod.ext_iff, eq_comm]

theorem runSamples_cons_eq_error {u : UnitId} {e : Option F32} {x : F32} {ps : List (Option F32 × F32)} {s : State}
    {why : NoMeaning} : runSamples u ((e, x) :: ps) s = .error why ↔ unitSample u e x s = .error why ∨
      ∃ s' y, unitSample u e x s = .ok (s', y) ∧ runSamples u ps s' = .error why := by
  cases hu : unitSample u e x s with
  | error why => simp [runSamples, hu]
  | ok r => cases hr : runSamples u ps r.1 <;> simp [runSamples, hu, hr, Prod.ext_iff]

theorem samples_zero (sc : Bool) (q : State) : samples sc 0 q = [] := by cases sc <;> simp [samples]

/-- The first of the samples there are, and the rest. -/
theorem samples_succ {sc : Bool} {m : Nat} {q : State} (hm : m + 1 ≤ available sc q) :
    ∃ x xs, ∃ e : Option F32, ∃ es, q.in0 = x :: xs ∧ e.isSome = sc ∧ q.in1 = e.toList ++ es ∧
      m ≤ available sc { q with in0 := xs, in1 := es } ∧
      samples sc (m + 1) q = (e, x) :: samples sc m { q with in0 := xs, in1 := es } := by
  obtain h0 | ⟨x, xs, h0, rfl, h1⟩ | ⟨x, xs, e, es, h0, rfl, h1⟩ := nextSample_cases sc q
  · simp [available, h0] at hm
  · simp [available, h1] at hm
  · refine ⟨x, xs, e, es, h0, rfl, h1, ?_, ?_⟩ <;> cases e <;> simp_all [available, samples]

/-- The streams after `m` samples with the outputs `ys`. -/
def popped (sc : Bool) (m : Nat) (ys : List F32) (q : State) : State :=
  { q with in0 := q.in0.drop m, in1 := if sc then q.in1.drop m else q.in1, out := q.out ++ ys }

theorem popped_zero (sc : Bool) (q : State) : popped sc 0 [] q = q := by simp [popped]

theorem popped_succ {sc : Bool} {q : State} {x : F32} {xs es : List F32} {e : Option F32} (h0 : q.in0 = x :: xs)
    (hsc : e.isSome = sc) (h1 : q.in1 = e.toList ++ es) (m : Nat) (y : F32) (ys : List F32) :
    popped sc m ys (pushOut y { q with in0 := xs, in1 := es }) = popped sc (m + 1) (y :: ys) q := by
  subst hsc
  cases e <;> simp_all [popped, pushOut]

/-- The loop over samples that are there is the per-sample function run over them (R87). -/
theorem procLoop_samples (u : UnitId) (sc : Bool) (n left : Nat) {m : Nat} {q s : State} (hm : m ≤ available sc q) :
    (∀ why, runSamples u (samples sc m q) s = .error why →
      procLoop u sc n (m + left) (withIO q s) = .fault (faultOf why)) ∧
    (∀ t ys, runSamples u (samples sc m q) s = .ok (t, ys) →
      procLoop u sc n (m + left) (withIO q s) = procLoop u sc n left (withIO (popped sc m ys q) t)) := by
  induction m generalizing q s with
  | zero =>
    rw [samples_zero, Nat.zero_add]
    refine ⟨nofun, fun t ys h => ?_⟩
    cases h
    rw [popped_zero]
  | succ m ih =>
    obtain ⟨x, xs, e, es, h0, hsc, h1, hm', hsamples⟩ := samples_succ hm
    rw [hsamples, Nat.succ_add_eq_add_succ, Nat.add_succ]
    refine ⟨fun why h => ?_, fun t ys h => ?_⟩
    · obtain hu | ⟨s', y, hu, hrest⟩ := runSamples_cons_eq_error.1 h
      · exact procLoop_sample_error n _ s h0 hsc h1 hu
      · rw [procLoop_sample n _ s h0 hsc h1 hu]
        exact (ih (q := pushOut y { q with in0 := xs, in1 := es }) hm').1 why hrest
    · obtain ⟨s', y, ys', hu, hrest, rfl⟩ := runSamples_cons_eq_ok.1 h
      rw [procLoop_sample n _ s h0 hsc h1 hu, ← popped_succ h0 hsc h1]
      exact (ih (q := pushOut y { q with in0 := xs, in1 := es }) hm').2 t ys' hrest

/-- With all samples there used and some to go the loop holds, with a sample that has lost its side-chain, if any. -/
theorem procLoop_exhausted (u : UnitId) (sc : Bool) (n left : Nat) (q t : State) (ys : List F32) :
    procLoop u sc n (left + 1) (withIO (popped sc (available sc q) ys q) t) = .next
      { t with
        in0 := q.in0.drop (available sc q + 1)
        in1 := if sc then q.in1.drop (available sc q) else q.in1
        out := q.out ++ ys
        busy := some ⟨u, sc, n, left + 1, q.in0[available sc q]?⟩ } := by
  by_cases h : q.in0.length ≤ available sc q
  · have hdrop : q.in0.drop (available sc q + 1) = q.in0.drop (available sc q) := by
      rw [List.drop_of_length_le h, List.drop_of_length_le (h.trans (Nat.le_succ _))]
    refine (procLoop_empty u sc n left (List.drop_of_length_le h)).trans ?_
    rw [hdrop, List.getElem?_eq_none h]
    rfl
  · rw [Nat.not_le] at h
    obtain rfl : sc = true := by
      cases sc
      · exact absurd h (lt_irrefl _)
      · rfl
    have hside : q.in1.drop (available true q) = [] := by
      refine List.drop_of_length_le ?_
      simp only [available, if_true] at h ⊢
      omega
    refine (procLoop_empty_side u n left (List.drop_eq_getElem_cons h) hside).trans ?_
    rw [List.getElem?_eq_getElem h]
    rfl

/-- Settles O11: the loop runs over the samples there are, and then holds. -/
theorem procHoldsWhereItsSamplesRunOut : Obligations.ProcHoldsWhereItsSamplesRunOut := by
  intro u n sc s s₀ hsc hs₀ hlt
  obtain ⟨left, hleft⟩ : ∃ left, n - available sc s = left + 1 := Nat.exists_eq_add_one.2 (Nat.sub_pos_of_lt hlt)
  have hexec : exec (procCommand u n sc) s =
      procLoop u sc n (available sc s + (left + 1)) (withIO s s₀) := by
    rw [exec_procCommand_of_started n hsc hs₀, withIO_started hs₀, ← hleft, Nat.add_sub_of_le hlt.le]
  obtain ⟨hfault, hhold⟩ := procLoop_samples u sc n (left + 1) (s := s₀) (le_refl (available sc s))
  refine ⟨fun why h => hexec.trans (hfault why h), fun t ys h => ?_⟩
  rw [hexec, hhold t ys h, hleft, procLoop_exhausted]

end Sys2Proof.Proofs
end

section
/-! PROOFS. The statements of spec/30_encoding.md: the decoder and the encoder are inverse to each other (R80 to R83),
the opcode table says which words are commands (R83), an illegal word's cause is its first failing check (R84, R88,
R226) and is answered (R224), and every command is answered once (R85). -/

namespace Sys2Proof.Proofs

open Sys2Proof Sys2Proof.Machine Sys2Proof.Claims

/-! ## Must-be-zero bits (R81, R82) -/

/-- Bits 31:1 of a `bool`, `mode` or `proc flags` operand (R82). -/
def flagReserved : Word32 := 0xFFFFFFFE#32

theorem and_flagReserved {v : Word32} : v &&& flagReserved = 0#32 ↔ upperBitsZero v = true := by
  constructor
  · intro h
    have hbits := congrArg (BitVec.extractLsb' 1 31) h
    have hones : flagReserved.extractLsb' 1 31 = .allOnes 31 := rfl
    rw [BitVec.extractLsb'_and, hones, BitVec.and_allOnes] at hbits
    exact beq_iff_eq.2 hbits
  · intro h
    rw [← ofBool_bitZero h]
    cases bitZero v <;> rfl

/-- The must-be-zero bits of the operand slots `(A, B, C)` in the row of a command (R81 to R83). -/
def reservedBits : Instr → Word32 × Word32 × Word32
  | .setTapsSec _ _ _ => (0#32, 0#32, 0#32)
  | .resetHistSec => (.allOnes 32, .allOnes 32, .allOnes 32)
  | .procWah _ _ => (0#32, flagReserved, .allOnes 32)
  | .setEnabledShlf _ | .setEnabledWah _ | .setEnabledFlng _ | .setEnabledDist _ | .setEnabledRvrb _
  | .setCombModeRvrb _ | .setApModeRvrb _ => (flagReserved, .allOnes 32, .allOnes 32)
  | _ => (0#32, .allOnes 32, .allOnes 32)

/-- `RSV` and the bits `m` of the operand slots of a word are zero. -/
abbrev ReservedZero (m : Word32 × Word32 × Word32) (w : CommandWord) : Prop :=
  rsvField w = 0#16 ∧ aField w &&& m.1 = 0#32 ∧ bField w &&& m.2.1 = 0#32 ∧ cField w &&& m.2.2 = 0#32

/-- The check of the must-be-zero bits, the last one of a decode (R226 (3)), and the command `i` read. -/
def checkReserved (m : Word32 × Word32 × Word32) (i : Instr) (w : CommandWord) : Except IllegalCause Instr :=
  if ReservedZero m w then .ok i else .error .reserved

section formats
variable (w : CommandWord)

theorem formatN_eq (i : Instr) : formatN i w = checkReserved (.allOnes 32, .allOnes 32, .allOnes 32) i w := by
  simp only [formatN, checkReserved, ReservedZero, BitVec.and_allOnes]

theorem formatV_eq (mk : Word32 → Instr) :
    formatV mk w = checkReserved (0#32, .allOnes 32, .allOnes 32) (mk (aField w)) w := by
  simp only [formatV, checkReserved, ReservedZero, BitVec.and_allOnes, BitVec.and_zero, true_and]

theorem formatVBool_eq (mk : Bool → Instr) :
    formatVBool mk w = checkReserved (flagReserved, .allOnes 32, .allOnes 32) (mk (bitZero (aField w))) w := by
  simp only [formatVBool, checkReserved, ReservedZero, BitVec.and_allOnes, and_flagReserved]

theorem formatVMode_eq (mk : Mode → Instr) :
    formatVMode mk w = checkReserved (flagReserved, .allOnes 32, .allOnes 32) (mk (modeOf (aField w))) w := by
  simp only [formatVMode, checkReserved, ReservedZero, BitVec.and_allOnes, and_flagReserved]

theorem formatT_eq (mk : Word32 → Word32 → Word32 → Instr) :
    formatT mk w = checkReserved (0#32, 0#32, 0#32) (mk (aField w) (bField w) (cField w)) w := by
  simp only [formatT, checkReserved, ReservedZero, BitVec.and_zero, and_true]

theorem formatP_eq (mk : Nat → Instr) :
    formatP mk w = checkReserved (0#32, .allOnes 32, .allOnes 32) (mk (aField w).toNat) w := by
  simp only [formatP, checkReserved, ReservedZero, BitVec.and_allOnes, BitVec.and_zero, true_and]

theorem formatPSc_eq (mk : Nat → Bool → Instr) :
    formatPSc mk w =
      checkReserved (0#32, flagReserved, .allOnes 32) (mk (aField w).toNat (bitZero (bField w))) w := by
  simp only [formatPSc, checkReserved, ReservedZero, BitVec.and_allOnes, BitVec.and_zero, true_and, and_flagReserved]

end formats

/-! ## Reading the operands of a row (R81, R82) -/

/-- The command of the row of `i` whose operands stand in the slots of `w`. -/
def readOperands (i : Instr) (w : CommandWord) : Instr :=
  match i with
  | .procSec _ => .procSec (aField w).toNat
  | .procShlf _ => .procShlf (aField w).toNat
  | .procWah _ _ => .procWah (aField w).toNat (bitZero (bField w))
  | .procFlng _ => .procFlng (aField w).toNat
  | .procDist _ => .procDist (aField w).toNat
  | .procRvrb _ => .procRvrb (aField w).toNat
  | .setEnabledShlf _ => .setEnabledShlf (bitZero (aField w))
  | .setEnabledWah _ => .setEnabledWah (bitZero (aField w))
  | .setEnabledFlng _ => .setEnabledFlng (bitZero (aField w))
  | .setEnabledDist _ => .setEnabledDist (bitZero (aField w))
  | .setEnabledRvrb _ => .setEnabledRvrb (bitZero (aField w))
  | .setWetGammaFlng _ => .setWetGammaFlng (aField w)
  | .setWetGammaDist _ => .setWetGammaDist (aField w)
  | .setWetGammaRvrb _ => .setWetGammaRvrb (aField w)
  | .setLfoFreqWah _ => .setLfoFreqWah (aField w)
  | .setLfoFreqFlng _ => .setLfoFreqFlng (aField w)
  | .setTapsSec _ _ _ => .setTapsSec (aField w) (bField w) (cField w)
  | .resetHistSec => .resetHistSec
  | .setTypeShlf _ => .setTypeShlf (aField w)
  | .setGainShlf _ => .setGainShlf (aField w)
  | .setCutoffShlf _ => .setCutoffShlf (aField w)
  | .setCutoffMinWah _ => .setCutoffMinWah (aField w)
  | .setCutoffMaxWah _ => .setCutoffMaxWah (aField w)
  | .setDampWah _ => .setDampWah (aField w)
  | .setDistFuncDist _ => .setDistFuncDist (aField w)
  | .setBoostDist _ => .setBoostDist (aField w)
  | .setCombModeRvrb _ => .setCombModeRvrb (modeOf (aField w))
  | .setApModeRvrb _ => .setApModeRvrb (modeOf (aField w))

theorem opcode_readOperands (i : Instr) (w : CommandWord) : opcode (readOperands i w) = opcode i := by cases i <;> rfl

theorem unit_readOperands (i : Instr) (w : CommandWord) : (readOperands i w).unit = i.unit := by cases i <;> rfl

theorem ofNat_count (v : Word32) : BitVec.ofNat 32 v.toNat = v := by simp

theorem toNat_count {n : Nat} (h : countFits n) : (BitVec.ofNat 32 n).toNat = n := Nat.mod_eq_of_lt h

/-- A slot that must be zero holds a zero. -/
theorem eq_zero_of_allReserved {v : Word32} (h : v &&& .allOnes 32 = 0#32) : 0#32 = v := by
  rw [← h, BitVec.and_allOnes]

/-- With the must-be-zero bits zero, the slots hold what the command read has for operands. -/
theorem operandSlots_readOperands {i : Instr} {w : CommandWord} (h : ReservedZero (reservedBits i) w) :
    (operandSlots (readOperands i w)).1 = aField w ∧ (operandSlots (readOperands i w)).2.1 = bField w ∧
      (operandSlots (readOperands i w)).2.2 = cField w := by
  obtain ⟨-, ha, hb, hc⟩ := h
  cases i with
  | procSec | procShlf | procFlng | procDist | procRvrb =>
    exact ⟨ofNat_count _, eq_zero_of_allReserved hb, eq_zero_of_allReserved hc⟩
  | procWah => exact ⟨ofNat_count _, ofBool_bitZero (and_flagReserved.1 hb), eq_zero_of_allReserved hc⟩
  | setEnabledShlf | setEnabledWah | setEnabledFlng | setEnabledDist | setEnabledRvrb =>
    exact ⟨ofBool_bitZero (and_flagReserved.1 ha), eq_zero_of_allReserved hb, eq_zero_of_allReserved hc⟩
  | setCombModeRvrb | setApModeRvrb =>
    exact ⟨ofMode_modeOf (and_flagReserved.1 ha), eq_zero_of_allReserved hb, eq_zero_of_allReserved hc⟩
  | setTapsSec => exact ⟨rfl, rfl, rfl⟩
  | resetHistSec => exact ⟨eq_zero_of_allReserved ha, eq_zero_of_allReserved hb, eq_zero_of_allReserved hc⟩
  | _ => exact ⟨rfl, eq_zero_of_allReserved hb, eq_zero_of_allReserved hc⟩

theorem opcField_encode (i : Instr) : opcField (encode i) = opcode i := opcField_pack _ _ _ _ _ _

theorem unitField_encode (i : Instr) : unitField (encode i) = unitCode i.unit := unitField_pack _ _ _ _ _ _

theorem aField_encode (i : Instr) : aField (encode i) = (operandSlots i).1 := aField_pack _ _ _ _ _ _

theorem bField_encode (i : Instr) : bField (encode i) = (operandSlots i).2.1 := bField_pack _ _ _ _ _ _

theorem cField_encode (i : Instr) : cField (encode i) = (operandSlots i).2.2 := cField_pack _ _ _ _ _ _

/-- Reading back the operands of a well-formed command gives the command. -/
theorem readOperands_encode {i : Instr} (h : i.wf = true) : readOperands i (encode i) = i := by
  cases i with
  | procSec | procShlf | procFlng | procDist | procRvrb =>
    simp only [readOperands, aField_encode, operandSlots, toNat_count (of_decide_eq_true h)]
  | procWah =>
    simp only [readOperands, aField_encode, bField_encode, operandSlots, toNat_count (of_decide_eq_true h),
      bitZero_ofBool]
  | setEnabledShlf | setEnabledWah | setEnabledFlng | setEnabledDist | setEnabledRvrb =>
    simp only [readOperands, aField_encode, operandSlots, bitZero_ofBool]
  | setCombModeRvrb | setApModeRvrb => simp only [readOperands, aField_encode, operandSlots, modeOf_ofMode]
  | setTapsSec => simp only [readOperands, aField_encode, bField_encode, cField_encode, operandSlots]
  | resetHistSec => rfl
  | _ => simp only [readOperands, aField_encode, operandSlots]

/-- The word of a command has its must-be-zero bits zero. -/
theorem reservedZero_encode (i : Instr) : ReservedZero (reservedBits i) (encode i) := by
  rw [ReservedZero, aField_encode, bField_encode, cField_encode]
  refine ⟨rsvField_pack _ _ _ _ _ _, ?_⟩
  cases i with
  | setEnabledShlf en | setEnabledWah en | setEnabledFlng en | setEnabledDist en | setEnabledRvrb en =>
    exact ⟨and_flagReserved.2 (upperBitsZero_ofBool en), BitVec.zero_and, BitVec.zero_and⟩
  | setCombModeRvrb m | setApModeRvrb m =>
    exact ⟨and_flagReserved.2 (upperBitsZero_ofMode m), BitVec.zero_and, BitVec.zero_and⟩
  | procWah n sc => exact ⟨BitVec.and_zero, and_flagReserved.2 (upperBitsZero_ofBool sc), BitVec.zero_and⟩
  | setTapsSec => exact ⟨BitVec.and_zero, BitVec.and_zero, BitVec.and_zero⟩
  | resetHistSec => exact ⟨BitVec.zero_and, BitVec.zero_and, BitVec.zero_and⟩
  | _ => exact ⟨BitVec.and_zero, BitVec.zero_and, BitVec.zero_and⟩

/-- A word with the `OPC` and `UNIT` of a command and its must-be-zero bits zero is the encoding of what it reads as. -/
theorem encode_readOperands {i : Instr} {w : CommandWord} (ho : opcode i = opcField w)
    (hu : unitCode i.unit = unitField w) (h : ReservedZero (reservedBits i) w) : encode (readOperands i w) = w := by
  obtain ⟨ha, hb, hc⟩ := operandSlots_readOperands h
  obtain ⟨hrsv, -⟩ := h
  rw [encode, opcode_readOperands, unit_readOperands, ha, hb, hc, ho, hu, ← hrsv, pack_fields]

/-! ## The decoder, by `OPC` and `UNIT` (R83, R84, R226) -/

/-- A word with the `OPC` and `UNIT` of a command reads as a command of the same row, or fails the last check. -/
theorem decode_of_pair {i : Instr} {w : CommandWord} (ho : opcode i = opcField w)
    (hu : unitCode i.unit = unitField w) : decode w = checkReserved (reservedBits i) (readOperands i w) w := by
  unfold decode
  rw [← ho, ← hu]
  cases i with
  | procSec | procShlf | procFlng | procDist | procRvrb => exact formatP_eq _ _
  | procWah => exact formatPSc_eq _ _
  | setEnabledShlf | setEnabledWah | setEnabledFlng | setEnabledDist | setEnabledRvrb => exact formatVBool_eq _ _
  | setWetGammaFlng | setWetGammaDist | setWetGammaRvrb | setLfoFreqWah | setLfoFreqFlng => exact formatV_eq _ _
  | setTapsSec => exact (if_pos rfl).trans (formatT_eq _ _)
  | resetHistSec => exact (if_pos rfl).trans (formatN_eq _ _)
  | setTypeShlf | setGainShlf | setCutoffShlf | setCutoffMinWah | setCutoffMaxWah | setDampWah | setDistFuncDist
  | setBoostDist => exact (if_pos rfl).trans (formatV_eq _ _)
  | setCombModeRvrb | setApModeRvrb => exact (if_pos rfl).trans (formatVMode_eq _ _)

/-- Settles O1: the word of a command passes the checks of its row and reads as the command. -/
theorem decodeEncodeReturnsTheCommand : Obligations.DecodeEncodeReturnsTheCommand := by
  intro i hwf
  rw [decode_of_pair (opcField_encode i).symm (unitField_encode i).symm, checkReserved,
    if_pos (reservedZero_encode i), readOperands_encode hwf]

/-! ## The rows of the opcode table (R83) -/

/-- The row of a command: it fixes `OPC`, `UNIT`, `RSV` and the must-be-zero bits of the operand slots. -/
def rowOf (i : Instr) : OpcodeRow where
  mask := pack (.allOnes 8) (.allOnes 8) (.allOnes 16) (reservedBits i).2.2 (reservedBits i).2.1 (reservedBits i).1
  pattern := pack (opcode i) (unitCode i.unit) 0#16 0#32 0#32 0#32

theorem opcField_rowOf (i : Instr) : opcField (rowOf i).pattern = opcode i := opcField_pack _ _ _ _ _ _

theorem unitField_rowOf (i : Instr) : unitField (rowOf i).pattern = unitCode i.unit := unitField_pack _ _ _ _ _ _

theorem pack_and_pack (o o' u u' : BitVec 8) (r r' : BitVec 16) (c c' b b' a a' : Word32) :
    pack o u r c b a &&& pack o' u' r' c' b' a' =
      pack (o &&& o') (u &&& u') (r &&& r') (c &&& c') (b &&& b') (a &&& a') := by
  simp only [pack, ← BitVec.and_append]

theorem pack_inj {o o' u u' : BitVec 8} {r r' : BitVec 16} {c c' b b' a a' : Word32} :
    pack o u r c b a = pack o' u' r' c' b' a' ↔ o = o' ∧ u = u' ∧ r = r' ∧ a = a' ∧ b = b' ∧ c = c' := by
  refine ⟨fun h => ⟨?_, ?_, ?_, ?_, ?_, ?_⟩, ?_⟩
  · simpa only [opcField_pack] using congrArg opcField h
  · simpa only [unitField_pack] using congrArg unitField h
  · simpa only [rsvField_pack] using congrArg rsvField h
  · simpa only [aField_pack] using congrArg aField h
  · simpa only [bField_pack] using congrArg bField h
  · simpa only [cField_pack] using congrArg cField h
  · rintro ⟨rfl, rfl, rfl, rfl, rfl, rfl⟩
    rfl

/-- `W & mask = match` checks the fields one by one. -/
theorem accepts_rowOf {i : Instr} {w : CommandWord} : (rowOf i).accepts w = true ↔
    opcode i = opcField w ∧ unitCode i.unit = unitField w ∧ ReservedZero (reservedBits i) w := by
  rw [OpcodeRow.accepts, beq_iff_eq]
  conv_lhs => rw [← pack_fields w]
  simp only [rowOf, pack_and_pack, pack_inj, BitVec.and_allOnes, eq_comm (a := opcode i),
    eq_comm (a := unitCode i.unit)]

/-- The pattern of a row is itself a command of the row. -/
theorem decode_pattern : ∀ r ∈ opcodeTable, (decode r.pattern).map rowOf = .ok r := by decide

theorem exists_rowOf {r : OpcodeRow} (hr : r ∈ opcodeTable) : ∃ i, r = rowOf i := by
  have h := decode_pattern r hr
  cases hd : decode r.pattern with
  | error cause => rw [hd] at h; cases h
  | ok i => rw [hd] at h; cases h; exact ⟨i, rfl⟩

/-- A row is determined by its `OPC` and `UNIT`. -/
theorem row_eq_of_pair {r r' : OpcodeRow} (hr : r ∈ opcodeTable) (hr' : r' ∈ opcodeTable)
    (ho : opcField r.pattern = opcField r'.pattern) (hu : unitField r.pattern = unitField r'.pattern) : r = r' := by
  have hpattern : r.pattern = r'.pattern := by
    obtain ⟨i, rfl⟩ := exists_rowOf hr
    obtain ⟨j, rfl⟩ := exists_rowOf hr'
    rw [opcField_rowOf, opcField_rowOf] at ho
    rw [unitField_rowOf, unitField_rowOf] at hu
    simp only [rowOf, ho, hu]
  have h := decode_pattern r hr
  rw [hpattern, decode_pattern r' hr'] at h
  exact (Except.ok.inj h).symm

theorem pair_of_accepts {r : OpcodeRow} {w : CommandWord} (hr : r ∈ opcodeTable) (h : r.accepts w = true) :
    opcField r.pattern = opcField w ∧ unitField r.pattern = unitField w := by
  obtain ⟨i, rfl⟩ := exists_rowOf hr
  obtain ⟨ho, hu, -⟩ := accepts_rowOf.1 h
  exact ⟨(opcField_rowOf i).trans ho, (unitField_rowOf i).trans hu⟩

/-- A word with the `OPC` and `UNIT` of a row is accepted by the row and the encoding of what it decodes to, or neither
accepted nor a command. -/
theorem decode_of_row {r : OpcodeRow} {w : CommandWord} (hr : r ∈ opcodeTable)
    (ho : opcField r.pattern = opcField w) (hu : unitField r.pattern = unitField w) :
    (r.accepts w = true ∧ ∃ i, decode w = .ok i ∧ encode i = w) ∨
    (r.accepts w = false ∧ decode w = .error .reserved) := by
  obtain ⟨i, rfl⟩ := exists_rowOf hr
  rw [opcField_rowOf] at ho
  rw [unitField_rowOf] at hu
  rw [decode_of_pair ho hu, checkReserved]
  by_cases hz : ReservedZero (reservedBits i) w
  · exact .inl ⟨accepts_rowOf.2 ⟨ho, hu, hz⟩, _, if_pos hz, encode_readOperands ho hu hz⟩
  · refine .inr ⟨Bool.eq_false_of_not_eq_true fun haccepts => ?_, if_neg hz⟩
    obtain ⟨-, -, hz'⟩ := accepts_rowOf.1 haccepts
    exact hz hz'

/-- The three ways the look-up of `OPC` and `UNIT` can end (R84). -/
theorem decode_cases (w : CommandWord) :
    (decode w = .error .opcode ∧ ∀ r ∈ opcodeTable, opcField r.pattern ≠ opcField w) ∨
    (decode w = .error .unit ∧ ∃ r ∈ opcodeTable, opcField r.pattern = opcField w) ∨
    (∃ r ∈ opcodeTable, opcField r.pattern = opcField w ∧ unitField r.pattern = unitField w) := by
  obtain ⟨d, hd⟩ : ∃ d, decode w = d := ⟨_, rfl⟩
  rw [hd]
  unfold decode at hd
  split at hd
  next ho => -- `PROC`
    split at hd
    case h_7 => exact .inr (.inl ⟨hd.symm, by rw [ho]; decide⟩)
    all_goals exact .inr (.inr (by rw [ho, ‹unitField w = _›]; decide))
  next ho => -- `SET_ENABLED`
    split at hd
    case h_6 => exact .inr (.inl ⟨hd.symm, by rw [ho]; decide⟩)
    all_goals exact .inr (.inr (by rw [ho, ‹unitField w = _›]; decide))
  next ho => -- `SET_WET_GAMMA`
    split at hd
    case h_4 => exact .inr (.inl ⟨hd.symm, by rw [ho]; decide⟩)
    all_goals exact .inr (.inr (by rw [ho, ‹unitField w = _›]; decide))
  next ho => -- `SET_LFO_FREQ`
    split at hd
    case h_3 => exact .inr (.inl ⟨hd.symm, by rw [ho]; decide⟩)
    all_goals exact .inr (.inr (by rw [ho, ‹unitField w = _›]; decide))
  case h_17 => -- an unknown opcode
    refine .inl ⟨hd.symm, fun r hr hi => ?_⟩
    obtain ⟨i, rfl⟩ := exists_rowOf hr
    rw [opcField_rowOf] at hi
    cases i <;> exact absurd hi.symm ‹_›
  all_goals -- the opcodes of one unit
    rename_i ho
    split at hd
    next hu => exact .inr (.inr (by rw [ho, hu]; decide))
    next => exact .inr (.inl ⟨hd.symm, by rw [ho]; decide⟩)

/-- A word that decodes is accepted by a row and is the encoding of the command. -/
theorem row_of_decode {w : CommandWord} {i : Instr} (h : decode w = .ok i) :
    encode i = w ∧ ∃ r ∈ opcodeTable, r.accepts w = true := by
  obtain ⟨hd, -⟩ | ⟨hd, -⟩ | ⟨r, hr, ho, hu⟩ := decode_cases w
  · rw [h] at hd; cases hd
  · rw [h] at hd; cases hd
  · obtain ⟨haccepts, j, hd, hj⟩ | ⟨-, hd⟩ := decode_of_row hr ho hu
    · rw [h] at hd; cases hd; exact ⟨hj, r, hr, haccepts⟩
    · rw [h] at hd; cases hd

/-- Settles O2: the row of the word determines every bit that is no operand. -/
theorem encodeDecodeReturnsTheWord : Obligations.EncodeDecodeReturnsTheWord :=
  fun _ _ h =>
    have ⟨hencode, _⟩ := row_of_decode h
    ⟨decode_wf h, hencode⟩

/-- A word that a row accepts has the row's `OPC` and `UNIT` and decodes. -/
theorem decode_of_accepts {r : OpcodeRow} {w : CommandWord} (hr : r ∈ opcodeTable) (h : r.accepts w = true) :
    opcField r.pattern = opcField w ∧ unitField r.pattern = unitField w ∧ ∃ i, decode w = .ok i := by
  obtain ⟨ho, hu⟩ := pair_of_accepts hr h
  obtain ⟨-, i, hd, -⟩ | ⟨hrejects, -⟩ := decode_of_row hr ho hu
  · exact ⟨ho, hu, i, hd⟩
  · rw [h] at hrejects; cases hrejects

/-- Settles O3: `W & mask = match` is the look-up of `OPC` and `UNIT` with the check of the must-be-zero bits. -/
theorem decoderAcceptsExactlyTheTableRows : Obligations.DecoderAcceptsExactlyTheTableRows := by
  have hfields : ∀ {w i}, decode w = .ok i → opcode i = opcField w ∧ unitCode i.unit = unitField w := by
    rintro w i h
    obtain ⟨rfl, -⟩ := row_of_decode h
    exact ⟨(opcField_encode i).symm, (unitField_encode i).symm⟩
  refine ⟨rfl, fun w r hr => ⟨fun h => ?_, fun ⟨i, hd, ho, hu⟩ => ?_⟩, fun w i h => ?_,
    fun w r hr r' hr' h h' => ?_⟩
  · obtain ⟨ho, hu, i, hd⟩ := decode_of_accepts hr h
    obtain ⟨ho', hu'⟩ := hfields hd
    exact ⟨i, hd, ho'.trans ho.symm, hu'.trans hu.symm⟩
  · obtain ⟨ho', hu'⟩ := hfields hd
    obtain ⟨haccepts, -⟩ | ⟨-, hd'⟩ := decode_of_row hr (ho.symm.trans ho') (hu.symm.trans hu')
    · exact haccepts
    · rw [hd] at hd'; cases hd'
  · obtain ⟨-, haccepts⟩ := row_of_decode h
    exact haccepts
  · obtain ⟨ho, hu⟩ := pair_of_accepts hr h
    obtain ⟨ho', hu'⟩ := pair_of_accepts hr' h'
    exact row_eq_of_pair hr hr' (ho.trans ho'.symm) (hu.trans hu'.symm)

/-- Settles O4: each way a decode can end goes with the table facts of one clause and against those of the others. -/
theorem illegalCauseIsTheFirstFailingCheck : Obligations.IllegalCauseIsTheFirstFailingCheck := by
  intro w
  obtain ⟨hd, hopcode⟩ | ⟨hd, r, hr, ho⟩ | ⟨r, hr, ho, hu⟩ := decode_cases w
  · exact ⟨iff_of_true hd hopcode, iff_of_false (by rw [hd]; nofun) fun ⟨⟨r, hr, ho⟩, _⟩ => hopcode r hr ho,
      iff_of_false (by rw [hd]; nofun) fun ⟨⟨r, hr, ho, _⟩, _⟩ => hopcode r hr ho⟩
  · have hunit : ∀ r ∈ opcodeTable, opcField r.pattern = opcField w → unitField r.pattern ≠ unitField w := by
      intro r hr ho hu
      obtain ⟨-, i, hd', -⟩ | ⟨-, hd'⟩ := decode_of_row hr ho hu <;> rw [hd] at hd' <;> cases hd'
    exact ⟨iff_of_false (by rw [hd]; nofun) fun h => h r hr ho, iff_of_true hd ⟨⟨r, hr, ho⟩, hunit⟩,
      iff_of_false (by rw [hd]; nofun) fun ⟨⟨r, hr, ho, hu⟩, _⟩ => hunit r hr ho hu⟩
  · obtain ⟨haccepts, i, hd, -⟩ | ⟨-, hd⟩ := decode_of_row hr ho hu
    · refine ⟨iff_of_false (by rw [hd]; nofun) fun h => h r hr ho,
        iff_of_false (by rw [hd]; nofun) fun ⟨_, h⟩ => h r hr ho hu,
        iff_of_false (by rw [hd]; nofun) fun ⟨_, hrejects⟩ => ?_⟩
      exact absurd ((hrejects r hr).symm.trans haccepts) Bool.false_ne_true
    · refine ⟨iff_of_false (by rw [hd]; nofun) fun h => h r hr ho,
        iff_of_false (by rw [hd]; nofun) fun ⟨_, h⟩ => h r hr ho hu,
        iff_of_true hd ⟨⟨r, hr, ho, hu⟩, fun r' hr' => Bool.eq_false_of_not_eq_true fun haccepts => ?_⟩⟩
      obtain ⟨-, -, i, hd'⟩ := decode_of_accepts hr' haccepts
      rw [hd] at hd'; cases hd'

/-- Settles O5: the legal words are the encodings of their commands, the others fail a check. -/
theorem wordsOfTheSpecDecodeAsItSays : Obligations.WordsOfTheSpecDecodeAsItSays := by
  unfold Obligations.WordsOfTheSpecDecodeAsItSays
  decide

/-! ## Answers (R85, R224) -/

/-- A word that encodes no command is rejected. -/
theorem step_of_illegal {s : State} {w : CommandWord} {ws : List CommandWord} {cause : IllegalCause}
    (hb : s.busy = none) (hc : s.cmds = w :: ws) (hd : decode w = .error cause) :
    step s = .next (reject (.illegalCommand cause) { s with cmds := ws }) := by
  simp [step, hb, takeCommand_eq_some.2 ⟨ws, hc, rfl⟩, hd]

/-- Settles O7: a rejection appends its response word and changes nothing else. -/
theorem stepRejectsAnIllegalWord : Obligations.StepRejectsAnIllegalWord :=
  fun _ _ _ hb hc => ⟨step_of_illegal hb hc, step_of_illegal hb hc, step_of_illegal hb hc⟩

/-- `t` has the waiting commands of `s`; the command has ended with one response, or holds without one. -/
def Answered (s t : State) : Prop :=
  t.cmds = s.cmds ∧
    ((t.busy = none ∧ ∃ r, t.resp = s.resp ++ [r]) ∨ (t.busy.isSome = true ∧ t.resp = s.resp))

/-- The loop of a `PROC` answers at its end only. -/
theorem procLoop_answered {u : UnitId} {sc : Bool} {n left : Nat} {s t : State}
    (h : procLoop u sc n left s = .next t) : Answered s t := by
  induction left generalizing s with
  | zero =>
    rw [procLoop_zero] at h
    cases h
    exact ⟨rfl, .inl ⟨rfl, _, rfl⟩⟩
  | succ left ih =>
    obtain ⟨-, rfl⟩ | ⟨x, xs, -, -, -, rfl⟩ | ⟨x, xs, e, es, s', y, -, -, -, hu, hloop⟩ := procLoop_succ_cases h
    · exact ⟨rfl, .inr ⟨rfl, rfl⟩⟩
    · exact ⟨rfl, .inr ⟨rfl, rfl⟩⟩
    · obtain ⟨⟨-, -, -, -, hcmds, hresp, -⟩, -⟩ := unitSample_frame hu
      have hanswered := ih hloop
      rwa [Answered, pushOut_cmds, pushOut_resp, hcmds, hresp] at hanswered

theorem started_cmds_resp {u : UnitId} {s s₀ : State} (h : started u s = .ok s₀) :
    s₀.cmds = s.cmds ∧ s₀.resp = s.resp := by
  obtain rfl | ⟨-, bank, rfl⟩ := started_cases h <;> exact ⟨rfl, rfl⟩

/-- A command is answered at once, or it is a `PROC` and by its loop. -/
theorem exec_answered {i : Instr} {s t : State} (hb : s.busy = none) (h : exec i s = .next t) : Answered s t := by
  cases hi : i.isProc with
  | false =>
    obtain ⟨r, a, rfl⟩ := exec_eq_next_of_not_isProc hi h
    exact ⟨rfl, .inl ⟨hb, r, rfl⟩⟩
  | true =>
    obtain ⟨u, n, sc, hsc, rfl⟩ := exists_procCommand hi
    obtain ⟨s₀, hs₀, hloop⟩ := exec_procCommand_eq_next hsc h
    obtain ⟨hcmds, hresp⟩ := started_cmds_resp hs₀
    have hanswered := procLoop_answered hloop
    rwa [Answered, hcmds, hresp] at hanswered

/-- Settles O9: a `PROC` in progress by its loop, a word taken by its rejection or its command. -/
theorem everyCommandIsAnsweredOnce : Obligations.EveryCommandIsAnsweredOnce := by
  intro s t h hcmd
  obtain ⟨p, hp, h⟩ | ⟨hb, hc, -⟩ | ⟨w, ws, cause, hb, hc, -, rfl⟩ | ⟨w, ws, i, hb, hc, -, h⟩ := step_cases h
  · obtain ⟨hcmds, hanswer⟩ := procLoop_answered h
    exact ⟨by rw [hp]; exact hcmds, hanswer⟩
  · exact absurd hc (hcmd hb)
  · exact ⟨by rw [hb, hc]; rfl, .inl ⟨hb, _, rfl⟩⟩
  · obtain ⟨hcmds, hanswer⟩ := exec_answered (s := { s with cmds := ws }) hb h
    exact ⟨by rw [hb, hc]; exact hcmds, hanswer⟩

end Sys2Proof.Proofs
end

section
/-! PROOFS. The statements of spec/40_sparse_tap_section.md: what `sec_filter` computes (R101), the difference equation
of a section (R100, R102), its comb form (R108), and the commands of unit `SEC` (R103 to R105). -/

namespace Sys2Proof.Proofs

open Sys2Proof Sys2Proof.Machine Sys2Proof.Claims

/-! ## The two commands that write registers (R104, R105) -/

/-- Settles O30: the meanings of the two commands, a fill being a list of zeros of the ring's length. -/
theorem secCommandsWriteCoefficientsOrClearHistories : Obligations.SecCommandsWriteCoefficientsOrClearHistories :=
  fun _ _ _ _ => ⟨rfl, rfl⟩

/-! ## One sample (R101) -/

/-- The output of `sec_filter`, in terms of the two oldest entries. -/
theorem secFilter_output (N : Numerics) (k : Nat) (S : Section) (x : F32) :
    (secFilter N k S x).2 =
      N.add (k + 4) (N.add (k + 2) (N.mul k S.fbLast (ringOldest S.yh)) (N.mul (k + 1) S.ffFirst x))
        (N.mul (k + 3) S.ffLast (ringOldest S.xh)) := rfl

/-- `sec_filter` pushes its input and its output. -/
theorem secFilter_section (N : Numerics) (k : Nat) (S : Section) (x : F32) :
    (secFilter N k S x).1 = { S with xh := ringPush S.xh x, yh := ringPush S.yh (secFilter N k S x).2 } := rfl

/-- Settles O35: the oldest entries are the heads, and a push drops them. -/
theorem secFilterComputesTheEquation : Obligations.SecFilterComputesTheEquation := by
  intro N k S x xo yo xs ys hx hy
  rw [Prod.ext_iff, secFilter_section, secFilter_output, hx, hy]
  exact ⟨rfl, rfl⟩

/-! ## Running a datapath over samples -/

section fold
variable {σ α : Type} (f : Nat → σ → α → σ × F32) (d : Nat)

theorem fold_length (k : Nat) (st : σ) (xs : List α) : (fold f d k st xs).2.length = xs.length := by
  induction xs generalizing k st with
  | nil => rfl
  | cons x xs ih => exact congrArg Nat.succ (ih _ _)

theorem fold_take (k : Nat) (st : σ) (xs : List α) (n : Nat) :
    (fold f d k st (xs.take n)).2 = (fold f d k st xs).2.take n := by
  induction xs generalizing k st n with
  | nil => simp [fold]
  | cons x xs ih =>
    cases n with
    | zero => rfl
    | succ n => exact congrArg (List.cons _) (ih _ _ n)

/-- Output `n` is that of one sample from the state after the first `n`. -/
theorem fold_getElem? (k : Nat) (st : σ) (xs : List α) (n : Nat) :
    (fold f d k st xs).2[n]? = xs[n]?.map fun x => (f (k + d * n) (fold f d k st (xs.take n)).1 x).2 := by
  induction xs generalizing k st n with
  | nil => rfl
  | cons x xs ih =>
    cases n with
    | zero => rfl
    | succ n =>
      have hk : k + d * (n + 1) = k + d + d * n := by ring
      rw [hk]
      exact ih (k + d) (f k st x).1 n

end fold

/-! ## The difference equation (R100, R102) -/

/-- What the histories hold after a block: its inputs and its outputs, pushed one by one. -/
theorem fold_secFilter_section (N : Numerics) (k : Nat) (S : Section) (xs : List F32) :
    (fold (secFilter N) 5 k S xs).1 =
      { S with
        xh := xs.foldl ringPush S.xh
        yh := (fold (secFilter N) 5 k S xs).2.foldl ringPush S.yh } := by
  induction xs generalizing k S with
  | nil => rfl
  | cons x xs ih => exact ih (k + 5) (secFilter N k S x).1

/-- Sample `n` of a signal delayed by `d`, zero before the start: `v[n-D]` (R102). -/
def delayed (d : Nat) (vs : List F32) (n : Nat) : F32 :=
  if n < d then posZero else (vs[n - d]?).getD posZero

/-- After `n` pushes into a ring of `d` zeros its oldest entry is what was pushed `d` samples ago. -/
theorem ringOldest_foldl_zeros {d n : Nat} (hd : 1 ≤ d) {vs : List F32} (hn : n ≤ vs.length) :
    ringOldest ((vs.take n).foldl ringPush (List.replicate d posZero)) = delayed d vs n := by
  rw [ringPush_foldl, List.length_take_of_le hn, ringOldest, List.headD_eq_head?_getD, List.head?_drop, delayed]
  split
  next h => rw [List.getElem?_append_left (by simpa using h), List.getElem?_replicate_of_lt h, Option.getD_some]
  next h =>
    rw [List.getElem?_append_right (by simpa using h), List.length_replicate, List.getElem?_take_of_lt (by omega)]

/-- Output `n` of a fresh section. -/
theorem fold_secNew_getElem? (N : Numerics) (k : Nat) {d n : Nat} (a b c : F32) {xs : List F32} {x : F32} (hd : 1 ≤ d)
    (hx : xs[n]? = some x) :
    (fold (secFilter N) 5 k (secNew d a b c) xs).2[n]? =
      some (N.add (k + 5 * n + 4)
        (N.add (k + 5 * n + 2)
          (N.mul (k + 5 * n) c (delayed d (fold (secFilter N) 5 k (secNew d a b c) xs).2 n))
          (N.mul (k + 5 * n + 1) a x))
        (N.mul (k + 5 * n + 3) b (delayed d xs n))) := by
  have hn : n ≤ xs.length := (List.getElem?_eq_some_iff.1 hx).1.le
  rw [fold_getElem?, hx, Option.map_some, secFilter_output, fold_secFilter_section, fold_take,
    ← ringOldest_foldl_zeros hd hn, ← ringOldest_foldl_zeros hd (hn.trans_eq (fold_length _ _ _ _ _).symm)]
  rfl

/-- Settles O36: the oldest entries are the samples of `D` ago. -/
theorem sectionSatisfiesItsDifferenceEquation : Obligations.SectionSatisfiesItsDifferenceEquation := by
  refine fun N k d a b c xs hd => ⟨fold_length _ _ _ _ _, fun n x y hx hy => ?_⟩
  exact Option.some.inj (hy.symm.trans (fold_secNew_getElem? N k a b c hd hx))

/-! ## `PROC.SEC` (R87, R103) -/

theorem okWord_eq (n : Nat) : okWord n = BitVec.ofNat 32 n ++ 0#32 := by
  rw [okWord, responseWord]
  ext i hi
  simp
  grind

theorem runSamples_resp {u : UnitId} {ps : List (Option F32 × F32)} {s t : State} {ys : List F32}
    (h : runSamples u ps s = .ok (t, ys)) : t.resp = s.resp := by
  induction ps generalizing s ys with
  | nil => cases h; rfl
  | cons p ps ih =>
    obtain ⟨s', y, ys', hu, hrest, -⟩ := runSamples_cons_eq_ok.1 h
    obtain ⟨⟨-, -, -, -, -, hresp, -⟩, -⟩ := unitSample_frame hu
    exact (ih hrest).trans hresp

/-- A `PROC` with all its samples supplied runs the per-sample function over them and completes. -/
theorem exec_procCommand_of_samples {u : UnitId} {sc : Bool} {n : Nat} {s s₀ t : State} {ys : List F32}
    (hsc : sc = true → u = .wah) (hs₀ : started u s = .ok s₀) (hn : n ≤ available sc s)
    (h : runSamples u (samples sc n s) s₀ = .ok (t, ys)) :
    exec (procCommand u n sc) s = .next (blockDone n sc s t ys) := by
  obtain ⟨-, hrun⟩ := procLoop_samples u sc n 0 (s := s₀) hn
  obtain ⟨-, hresp⟩ := started_cmds_resp hs₀
  have hloop : exec (procCommand u n sc) s = procLoop u sc n 0 (withIO (popped sc n ys s) t) := by
    rw [exec_procCommand_of_started n hsc hs₀, ← hrun t ys h, withIO_started hs₀, Nat.add_zero]
  rw [hloop, procLoop_zero, blockDone, ← hresp, ← runSamples_resp h, ← okWord_eq]
  rfl

/-- The samples of `SEC` are `sec_filter` on its registers. -/
theorem runSamples_sec (xs : List F32) (s : State) :
    runSamples .sec (xs.map fun x => (none, x)) s =
      .ok ({ s with
          sec := (fold (secFilter (numOf s.cfg)) 5 s.draws s.sec xs).1
          draws := s.draws + 5 * xs.length },
        (fold (secFilter (numOf s.cfg)) 5 s.draws s.sec xs).2) := by
  induction xs generalizing s with
  | nil => rfl
  | cons x xs ih =>
    have hdraws : s.draws + 5 * (x :: xs).length = s.draws + 5 + 5 * xs.length := by
      rw [List.length_cons]
      ring
    rw [hdraws]
    exact runSamples_cons_eq_ok.2 ⟨_, _, _, rfl, ih (secSample x s).1, rfl⟩

/-- Settles O37: a block of `SEC` completes with the registers its samples leave. -/
theorem procSecRunsTheSection : Obligations.ProcSecRunsTheSection := by
  intro n s hn
  have hrun := runSamples_sec (s.in0.take n) s
  rw [List.length_take_of_le hn] at hrun
  exact exec_procCommand_of_samples (u := .sec) (sc := false) nofun rfl hn hrun

/-! ## Sums and products with a zero -/

theorem fadd_comm (k : Nat) (a b : F32) : fadd k a b = fadd k b a := by
  by_cases hn : isNaN a = true ∨ isNaN b = true
  · rw [fadd_nan k hn, fadd_nan k hn.symm]
  · obtain ⟨na, nb⟩ := not_or.1 hn
    rw [Bool.not_eq_true] at na nb
    obtain fa | ia := isZero_or_finite_or_inf na <;> obtain fb | ib := isZero_or_finite_or_inf nb
    · rw [fadd_finite k fa fb, fadd_finite k fb fa, add_comm (fval a), Bool.and_comm (fsign a)]
    · rw [fadd_inf_right k fa ib, fadd_inf_left k ib na fun h => by simp [isInf_of_isFinite fa] at h]
    · rw [fadd_inf_right k fb ia, fadd_inf_left k ia nb fun h => by simp [isInf_of_isFinite fb] at h]
    · by_cases hs : fsign a = fsign b
      · rw [fadd_inf_left k ia nb fun _ => hs, fadd_inf_left k ib na fun _ => hs.symm, ← packF_fsign_fmag a,
          ← packF_fsign_fmag b, isInf_iff.1 ia, isInf_iff.1 ib, hs]
      · simp [fadd, na, nb, ia, ib, hs, Ne.symm hs]

/-- `a (+) +0.0` is `a`, except that it turns `-0.0` into `+0.0`. -/
theorem fadd_posZero (k : Nat) {a : F32} (h : isNaN a = false) :
    fadd k a posZero = if a = negZero then posZero else a := by
  split
  next hz => rw [hz]; rfl
  next hz => rw [fadd_comm, posZero_fadd k h hz]

theorem fadd_posZero_of_isZero (k : Nat) {a : F32} (h : isZero a = true) : fadd k a posZero = posZero := by
  rcases isZero_cases (isZero_iff.1 h) with rfl | rfl <;> rfl

/-- A second `(+) +0.0` changes nothing, and the index of the free value shows nowhere. -/
theorem fadd_posZero_twice (i j k : Nat) {a : F32} (h : isNaN a = false) :
    fadd i (fadd j a posZero) posZero = fadd k a posZero := by
  rw [fadd_posZero j h, fadd_posZero k h]
  split
  next => rfl
  next hz => rw [fadd_posZero i h, if_neg hz]

theorem isZero_fmul (k : Nat) {a b : F32} (ha : isFinite a = true) (hb : isFinite b = true)
    (h : isZero a = true ∨ isZero b = true) : isZero (fmul k a b) = true := by
  have hzero : scaledMag (fmag a) * scaledMag (fmag b) = 0 := by
    rw [Nat.mul_eq_zero, scaledMag_eq_zero, scaledMag_eq_zero]
    exact h.imp isZero_iff.1 isZero_iff.1
  rw [fmul_finite k ha hb, hzero, isZero_iff, fmag_packF _ (roundMag_lt _ _)]
  rfl

/-! ## The echoes of a comb (R108) -/

/-- A finite gain times a number is a number, unless it is zero times infinity. -/
theorem isNaN_fmul_gain (k : Nat) {g e : F32} (hg : isFinite g = true) (he : isNaN e = false)
    (hz : isZero g = true → isFinite e = true) : isNaN (fmul k g e) = false := by
  rw [← Bool.not_eq_true, isNaN_fmul]
  rintro (h | h | ⟨h, -⟩ | ⟨h, h'⟩)
  · simp [isNaN_of_isFinite hg] at h
  · simp [he] at h
  · simp [isInf_of_isFinite hg] at h
  · simp [isInf_of_isFinite (hz h)] at h'

/-- An echo is a number, and a finite one where the gain is zero. -/
theorem echo_number {g : F32} (hg : isFinite g = true) (j : Nat) :
    isNaN (echo g j) = false ∧ (isZero g = true → isFinite (echo g j) = true) := by
  induction j with
  | zero => exact ⟨rfl, fun _ => rfl⟩
  | succ j ih =>
    obtain ⟨he, hz⟩ := ih
    constructor
    · have hp := isNaN_fmul_gain 0 hg he hz
      rw [echo, fadd_posZero 0 hp]
      split
      next => rfl
      next => exact hp
    · intro h
      rw [echo, fadd_posZero_of_isZero 0 (isZero_fmul 0 hg (hz h) (.inl h))]
      rfl

/-- The sum of `sec_filter` over one echo gives the next echo. -/
theorem fadd_fmul_echo (i j k : Nat) {g : F32} (hg : isFinite g = true) (n : Nat) :
    fadd i (fadd j (fmul k g (echo g n)) posZero) posZero = echo g (n + 1) := by
  obtain ⟨he, hz⟩ := echo_number hg n
  have hp := isNaN_fmul_gain k hg he hz
  have hk : fmul k g (echo g n) = fmul 0 g (echo g n) := by
    obtain h | ⟨h, -⟩ := fmul_index k 0 g (echo g n)
    · exact h
    · rw [h, isNaN_quietNaN] at hp
      cases hp
  rw [fadd_posZero_twice i j 0 hp, hk, echo]

/-- Output `n` of a comb on an impulse. -/
def combOutput (d : Nat) (g : F32) (n : Nat) : F32 := if n ≠ 0 ∧ d ∣ n then echo g (n / d - 1) else posZero

theorem combOutput_multiple {d : Nat} (hd : 0 < d) (g : F32) (j : Nat) : combOutput d g (d * (j + 1)) = echo g j := by
  rw [combOutput, if_pos ⟨by positivity, Nat.dvd_mul_right _ _⟩, Nat.mul_div_cancel_left _ hd, Nat.add_sub_cancel]

theorem combOutput_zero (d : Nat) (g : F32) : combOutput d g 0 = posZero := rfl

theorem combOutput_of_not_dvd {d n : Nat} (g : F32) (h : ¬ d ∣ n) : combOutput d g n = posZero :=
  if_neg fun h' => h h'.2

/-- The outputs of a comb satisfy its difference equation, the impulse arriving at `n = D`. -/
theorem combOutput_recurrence (i j k : Nat) {d : Nat} {g : F32} (hd : 0 < d) (hg : isFinite g = true) (n : Nat) :
    fadd i (fadd j (fmul k g (if n < d then posZero else combOutput d g (n - d))) posZero)
      (if n = d then one else posZero) = combOutput d g n := by
  have silent : fadd j (fmul k g posZero) posZero = posZero :=
    fadd_posZero_of_isZero j (isZero_fmul k hg rfl (.inr rfl))
  by_cases hn : d ∣ n
  · obtain ⟨t, rfl⟩ := hn
    match t with
    | 0 => rw [Nat.mul_zero, if_pos hd, silent, if_neg (by omega), combOutput_zero]; rfl
    | 1 =>
      have h1 := combOutput_multiple hd g 0
      rw [Nat.zero_add, Nat.mul_one] at h1
      rw [Nat.mul_one, if_neg (lt_irrefl d), Nat.sub_self, combOutput_zero, silent, if_pos rfl, h1,
        posZero_fadd i rfl (by decide)]
      rfl
    | t + 2 =>
      have hlt : d < d * (t + 2) := by nlinarith
      have hprev : d * (t + 2) - d = d * (t + 1) := by rw [Nat.mul_succ, Nat.add_sub_cancel]
      rw [if_neg hlt.not_gt, if_neg hlt.ne', hprev, combOutput_multiple hd, fadd_fmul_echo i j k hg,
        combOutput_multiple hd]
  · have hprev : (if n < d then posZero else combOutput d g (n - d)) = posZero := by
      split
      next => rfl
      next h => exact combOutput_of_not_dvd g fun h' => hn ((Nat.dvd_sub_iff_left (by omega) (dvd_refl d)).1 h')
    rw [hprev, silent, if_neg (by rintro rfl; exact hn (dvd_refl n)), combOutput_of_not_dvd g hn]
    rfl

theorem impulse_getElem? {m n : Nat} (hn : n ≤ m) :
    (one :: List.replicate m posZero)[n]? = some (if n = 0 then one else posZero) := by
  cases n with
  | zero => rfl
  | succ n => exact List.getElem?_replicate_of_lt hn

/-- The impulse, delayed. -/
theorem delayed_impulse {d m n : Nat} (hn : n ≤ m) :
    delayed d (one :: List.replicate m posZero) n = if n = d then one else posZero := by
  rw [delayed]
  split
  next h => rw [if_neg h.ne]
  next h =>
    rw [impulse_getElem? ((Nat.sub_le n d).trans hn), Option.getD_some]
    exact if_congr (by omega) rfl rfl

/-- Settles O38: by strong induction on `n`, the output of `D` samples ago being known. -/
theorem combEchoesLandAtMultiplesOfD : Obligations.CombEchoesLandAtMultiplesOfD := by
  intro k d m g hd hg n hn
  change _ = some (combOutput d g n)
  induction n using Nat.strong_induction_on with
  | _ n ih =>
    have hdelayed : delayed d (fold (secFilter binary32) 5 k (secNew d posZero one g)
        (one :: List.replicate m posZero)).2 n = if n < d then posZero else combOutput d g (n - d) := by
      rw [delayed]
      split
      next => rfl
      next h => rw [ih (n - d) (by omega) (by omega), Option.getD_some]
    have hinput : ∀ i, fmul i posZero (if n = 0 then one else posZero) = posZero := fun i => by split <;> rfl
    have hone : ∀ i, fmul i one (if n = d then one else posZero) = if n = d then one else posZero :=
      fun i => one_fmul i (by split <;> rfl)
    rw [fold_secNew_getElem? binary32 k posZero one g hd (impulse_getElem? hn), hdelayed, delayed_impulse hn,
      binary32_add, binary32_mul, hinput, hone, combOutput_recurrence _ _ _ hd hg]

end Sys2Proof.Proofs
end

section
/-! PROOFS. The statements of spec/41_biquad_shelving.md: the recursion (R121, R128), the parameter commands (R125, R127)
and their valid cutoffs (R126), the unity filter (R123, R133), and what every unit has like `SHLF`: the enable bit and
its command (R132), and the inputs passed while it is 0 (R128). -/

namespace Sys2Proof.Proofs

open Sys2Proof Sys2Proof.Machine Sys2Proof.Claims

/-! ## The recursion (R121, R128) -/

/-- Settles O39: the two registers and the output, written out. -/
theorem biquadStepIsTransposedDirectForm : Obligations.BiquadStepIsTransposedDirectForm := by
  rintro N k f x y rfl
  rfl

/-- A block of `bq_step` changes `Z1` and `Z2` only. -/
theorem fold_bqStep_frame (N : Numerics) (k : Nat) (f : Shlf) (xs : List F32) :
    (fold (bqStep N) 9 k f xs).1 =
      { f with z1 := (fold (bqStep N) 9 k f xs).1.z1, z2 := (fold (bqStep N) 9 k f xs).1.z2 } := by
  induction xs generalizing k f with
  | nil => rfl
  | cons x xs ih => exact ih (k + 9) (bqStep N k f x).1

theorem enabledOut_cons (en : Bool) (y x : F32) (ys xs : List F32) :
    (if en then y :: ys else x :: xs) = enabledOut en y x :: if en then ys else xs := by
  cases en <;> rfl

/-- The samples of `SHLF` are `bq_step` on its registers; the enable bit chooses between its outputs and the inputs. -/
theorem runSamples_shlf (xs : List F32) (s : State) :
    runSamples .shlf (xs.map fun x => (none, x)) s =
      .ok ({ s with
          shlf := (fold (bqStep (numOf s.cfg)) 9 s.draws s.shlf xs).1
          draws := s.draws + 9 * xs.length },
        if s.shlf.en then (fold (bqStep (numOf s.cfg)) 9 s.draws s.shlf xs).2 else xs) := by
  induction xs generalizing s with
  | nil => simp [runSamples, fold]
  | cons x xs ih =>
    have hdraws : s.draws + 9 * (x :: xs).length = s.draws + 9 + 9 * xs.length := by
      rw [List.length_cons]
      ring
    rw [hdraws]
    exact runSamples_cons_eq_ok.2 ⟨_, _, _, rfl, ih (shlfSample x s).1, enabledOut_cons _ _ _ _ _⟩

/-- Settles O41: a block of `SHLF` completes with the registers its samples leave. -/
theorem procShlfRunsTheBiquad : Obligations.ProcShlfRunsTheBiquad := by
  intro n s hn
  have hrun := runSamples_shlf (s.in0.take n) s
  rw [List.length_take_of_le hn, fold_bqStep_frame] at hrun
  exact exec_procCommand_of_samples (u := .shlf) (sc := false) nofun rfl hn hrun

/-! ## Disabled units (R128, R144, R164, R183, R212) -/

/-- The enable bit of a unit; `SEC` has none, its output is always its filter's (R103). -/
def enableBit (u : UnitId) (s : State) : Bool :=
  match u with
  | .sec => true
  | .shlf => s.shlf.en
  | .wah => s.wah.en
  | .flng => s.flng.en
  | .dist => s.dist.en
  | .rvrb => s.rvrb.en

/-- The LFO and the recursion of `WAH` leave its enable bit. -/
theorem wahFilter_en (N : Numerics) (k : Nat) (fs : F32) (e : Option F32) (w : Wah) (x : F32) :
    (wahFilter N k fs e w x).1.en = w.en := by
  cases e <;> rfl

/-- A sample of a disabled unit answers its input and leaves the unit disabled. -/
theorem unitSample_disabled {u : UnitId} {e : Option F32} {x y : F32} {s t : State} (hen : enableBit u s = false)
    (h : unitSample u e x s = .ok (t, y)) : y = x ∧ enableBit u t = false := by
  cases u with
  | sec => cases hen
  | shlf | rvrb =>
    cases h
    exact ⟨congrArg (enabledOut · _ x) hen, hen⟩
  | wah =>
    cases h
    exact ⟨congrArg (enabledOut · _ x) hen, (wahFilter_en _ _ _ _ _ _).trans hen⟩
  | flng =>
    obtain ⟨f, w, hf, rfl, rfl⟩ := flngSample_eq_ok.1 h
    rw [flngFilter_frame hf]
    exact ⟨congrArg (enabledOut · w x) hen, hen⟩
  | dist =>
    have hen : s.dist.en = false := hen
    simp only [unitSample, distSample, hen] at h
    cases h
    exact ⟨rfl, hen⟩

theorem runSamples_disabled {u : UnitId} {ps : List (Option F32 × F32)} {s t : State} {ys : List F32}
    (hen : enableBit u s = false) (h : runSamples u ps s = .ok (t, ys)) : ys = ps.map Prod.snd := by
  induction ps generalizing s ys with
  | nil => cases h; rfl
  | cons p ps ih =>
    obtain ⟨s', y, ys', hu, hrest, rfl⟩ := runSamples_cons_eq_ok.1 h
    obtain ⟨rfl, hen'⟩ := unitSample_disabled hen hu
    rw [List.map_cons, ih hen' hrest]

theorem samples_map_snd {sc : Bool} {n : Nat} {s : State} (hn : n ≤ available sc s) :
    (samples sc n s).map Prod.snd = s.in0.take n := by
  cases sc with
  | false => simp [samples, Function.comp_def]
  | true =>
    have hlen : n ≤ s.in0.length ∧ n ≤ s.in1.length := le_min_iff.1 hn
    rw [samples, if_pos rfl]
    exact List.map_snd_zip (by simp; omega)

/-- A `PROC` with all its samples supplied that answers a next state has run the per-sample function over them: the
converse of `exec_procCommand_of_samples`. -/
theorem blockDone_of_exec_procCommand {u : UnitId} {sc : Bool} {n : Nat} {s t : State} (hsc : sc = true → u = .wah)
    (hn : n ≤ available sc s) (h : exec (procCommand u n sc) s = .next t) :
    ∃ s₀ r ys, started u s = .ok s₀ ∧ runSamples u (samples sc n s) s₀ = .ok (r, ys) ∧ t = blockDone n sc s r ys := by
  obtain ⟨s₀, hs₀, hloop⟩ := exec_procCommand_eq_next hsc h
  cases hr : runSamples u (samples sc n s) s₀ with
  | error why =>
    have hfault := (procLoop_samples u sc n 0 hn).1 why hr
    rw [withIO_started hs₀, Nat.add_zero, hloop] at hfault
    cases hfault
  | ok r =>
    refine ⟨s₀, r.1, r.2, hs₀, hr, ?_⟩
    rw [exec_procCommand_of_samples hsc hs₀ hn hr] at h
    cases h
    rfl

/-- The rebuild that comes before the first sample leaves the enable bit. -/
theorem started_enableBit {u : UnitId} {s s₀ : State} (h : started u s = .ok s₀) :
    enableBit u s₀ = enableBit u s := by
  obtain rfl | ⟨rfl, bank, rfl⟩ := started_cases h <;> rfl

theorem out_of_disabled {u : UnitId} {sc : Bool} {n : Nat} {s t : State} (hsc : sc = true → u = .wah)
    (hn : n ≤ available sc s) (hen : enableBit u s = false) (h : exec (procCommand u n sc) s = .next t) :
    t.out = s.out ++ s.in0.take n := by
  obtain ⟨s₀, r, ys, hs₀, hrun, rfl⟩ := blockDone_of_exec_procCommand hsc hn h
  rw [← samples_map_snd hn, ← runSamples_disabled ((started_enableBit hs₀).trans hen) hrun]
  rfl

theorem available_le_length (sc : Bool) (s : State) : available sc s ≤ s.in0.length := by
  cases sc
  · exact le_rfl
  · exact Nat.min_le_left _ _

/-- Settles O26: each clause is the general one, with a side-chain on `WAH` only. -/
theorem disabledUnitsPassSamplesBitForBit : Obligations.DisabledUnitsPassSamplesBitForBit := by
  intro n sc s t hn
  have hn0 : n ≤ available false s := hn.trans (available_le_length sc s)
  exact ⟨out_of_disabled (u := .shlf) (sc := false) nofun hn0, out_of_disabled (u := .wah) (fun _ => rfl) hn,
    out_of_disabled (u := .flng) (sc := false) nofun hn0, out_of_disabled (u := .dist) (sc := false) nofun hn0,
    out_of_disabled (u := .rvrb) (sc := false) nofun hn0⟩

/-! ## The enable commands (R132, R150, R168, R190, R211) -/

/-- Settles O28: the meanings of the five commands. -/
theorem setEnabledWritesTheEnableBit : Obligations.SetEnabledWritesTheEnableBit :=
  fun _ _ => ⟨rfl, rfl, rfl, rfl, rfl⟩

/-! ## The parameter commands (R125, R127) -/

section rederive
variable {s : State} (g : F32) {c : F32}

/-- At a valid cutoff all parameters and coefficients are committed. -/
theorem shelfRederive_of_valid (ty : ShelfType) (hc : cutoffValid s.cfg c = true) :
    shelfRederive (some ty) g c s =
      { s with
        shlf := { s.shlf with shelfType := ty, gainDb := g, cutoff := c, coef := designFor s.cfg ty g c }
        resp := s.resp ++ [0#64] } := by
  rw [shelfRederive, if_pos hc]
  rfl

theorem shelfRederive_of_invalid (ty : ShelfType) (hc : cutoffValid s.cfg c = false) :
    shelfRederive (some ty) g c s = { s with resp := s.resp ++ [0x301#64] } := by
  rw [shelfRederive, if_neg (Bool.eq_false_iff.1 hc)]
  rfl

end rederive

/-- An unknown type is rejected, whatever the cutoff. -/
theorem shelfRederive_none (g c : F32) (s : State) :
    shelfRederive none g c s = { s with resp := s.resp ++ [0x201#64] } := rfl

/-- Settles O32: `shelf_rederive`, with the new parameter and the two current ones. -/
theorem shelfCommandsCommitAllOrNothing : Obligations.ShelfCommandsCommitAllOrNothing := by
  refine fun s => ⟨fun t h0 h1 => ?_, fun t ty ht hc => ?_,
    fun g hc => congrArg _ (shelfRederive_of_valid g s.shlf.shelfType hc),
    fun c hc => congrArg _ (shelfRederive_of_valid s.shlf.gainDb s.shlf.shelfType hc),
    fun c hc => congrArg _ (shelfRederive_of_invalid s.shlf.gainDb s.shlf.shelfType hc), fun t ht hc => ?_,
    fun g hc => congrArg _ (shelfRederive_of_invalid g s.shlf.shelfType hc)⟩
  · rw [exec, execSetTypeShlf, shelfTypeOf_eq_none h0 h1, shelfRederive_none]
  · obtain ⟨rfl, rfl⟩ | ⟨rfl, rfl⟩ := ht <;> exact congrArg _ (shelfRederive_of_valid s.shlf.gainDb _ hc)
  · obtain rfl | rfl := ht <;> exact congrArg _ (shelfRederive_of_invalid s.shlf.gainDb _ hc)

/-- Settles O33: in a sound state the current cutoff is valid, so only the new parameter can be at fault. -/
theorem eachShelfCommandFailsWithItsOwnCauseOnly : Obligations.EachShelfCommandFailsWithItsOwnCauseOnly := by
  intro s hs
  have hcut := hs.shlf.cutoff
  refine ⟨fun t => ⟨_, rfl, ?_⟩, fun g => ⟨_, rfl, ?_⟩, fun c => ⟨_, rfl, ?_⟩⟩
  · cases shelfTypeOf t with
    | none => exact .inr rfl
    | some ty => exact .inl (by rw [shelfRederive_of_valid _ ty hcut])
  · rw [shelfRederive_of_valid g _ hcut]
  · cases hc : cutoffValid s.cfg c with
    | true => exact .inl (by rw [shelfRederive_of_valid _ _ hc])
    | false => exact .inr (by rw [shelfRederive_of_invalid _ _ hc])

/-! ## Valid cutoffs (R126) -/

section nonneg
variable {a : F32} (h : a.toNat < 2 ^ 31)
include h

theorem fmag_of_nonneg : fmag a = a.toNat := Nat.mod_eq_of_lt h

theorem fsign_of_nonneg : fsign a = false := by
  rw [fsign, Nat.div_eq_of_lt h]
  rfl

end nonneg

/-- Below a sign the patterns of numbers are ordered as the numbers; no negative number and no NaN is above one. -/
theorem flt_of_nonneg {a b : F32} (ha : a.toNat ≤ infMag) :
    flt a b = true ↔ a.toNat < b.toNat ∧ b.toNat ≤ infMag := by
  have ha' : a.toNat < 2 ^ 31 := ha.trans_lt (by decide)
  have hkey : orderKey a = a.toNat := by rw [orderKey, fsign_of_nonneg ha', fmag_of_nonneg ha']; rfl
  have hNaN : isNaN a = false := by rw [isNaN, fmag_of_nonneg ha']; exact decide_eq_false ha.not_gt
  have hNaN' : isNaN b = false ↔ fmag b ≤ infMag := by rw [isNaN, decide_eq_false_iff_not, Nat.not_lt]
  rw [flt, Bool.and_eq_true, ordered_iff, decide_eq_true_iff, hNaN', hkey, and_iff_right hNaN]
  by_cases hb : b.toNat < 2 ^ 31
  · rw [orderKey, fsign_of_nonneg hb, fmag_of_nonneg hb, if_neg Bool.false_ne_true, Nat.cast_lt, and_comm]
  · have hsign : fsign b = true := by
      rw [fsign, show b.toNat / 2 ^ 31 = 1 by omega]
      rfl
    rw [orderKey, if_pos hsign, infMag]
    omega

/-- `FS (/) 2.0` of a positive finite `FS` is a number without sign. -/
theorem toNat_fdiv_two_le {a : F32} (ha : isFinite a = true) (h0 : fgt a posZero = true) :
    (fdiv 0 a two).toNat ≤ infMag := by
  obtain ⟨-, hle⟩ := (flt_of_nonneg (Nat.zero_le _)).1 h0
  rw [fdiv_finite 0 ha rfl rfl, fsign_of_nonneg (hle.trans_lt (by decide)), show (false != fsign two) = false from rfl,
    packF_toNat false (roundMag_lt _ _), if_neg Bool.false_ne_true, Nat.zero_add]
  exact roundMag_le_infMag _ _

/-- Both comparisons of R126, as comparisons of patterns. -/
theorem cutoffValid_iff {cfg : Cfg} {c : F32} : cutoffValid cfg c = true ↔
    0 < c.toNat ∧ c.toNat < (nyquist cfg).toNat ∧ (nyquist cfg).toNat ≤ infMag := by
  rw [cutoffValid, Bool.and_eq_true, flt_of_nonneg (a := posZero) (Nat.zero_le _)]
  constructor
  · rintro ⟨⟨h0, hle⟩, hlt⟩
    exact ⟨h0, (flt_of_nonneg hle).1 hlt⟩
  · rintro ⟨h0, hlt, hle⟩
    have hc : c.toNat ≤ infMag := hlt.le.trans hle
    exact ⟨⟨h0, hc⟩, (flt_of_nonneg hc).2 ⟨hlt, hle⟩⟩

/-- Settles O34: under binary32 the bound on `FS (/) 2.0` holds by itself. -/
theorem validCutoffsLieBetweenZeroAndNyquist : Obligations.ValidCutoffsLieBetweenZeroAndNyquist := by
  refine fun cfg c => ⟨cutoffValid_iff, fun hn hfin hpos => ?_⟩
  have hq : nyquist cfg = fdiv 0 cfg.fs two := by rw [nyquist, numOf_binary32 hn, binary32_div]
  rw [cutoffValid_iff, hq, and_iff_left (toNat_fdiv_two_le hfin hpos)]

/-! ## The unity filter (R123, R133) -/

/-- `SD_UNITY` (R123). -/
theorem shelfDesign_unity {cfg : Cfg} {g c : F32} (high : Bool) (hg : isZero g = true)
    (hc : cutoffValid cfg c = true) :
    (shelfDesign cfg high g c).b0 = one ∧ (shelfDesign cfg high g c).b1 = (shelfDesign cfg high g c).a1 ∧
      (shelfDesign cfg high g c).b2 = (shelfDesign cfg high g c).a2 ∧
      polesInside (shelfDesign cfg high g c).a1 (shelfDesign cfg high g c).a2 = true := by
  simp only [shelfDesign, hg, hc, Bool.and_self, if_true]
  split
  next hpoles => exact ⟨rfl, rfl, rfl, hpoles⟩
  next => exact ⟨rfl, rfl, rfl, by decide +kernel⟩

/-- A finite product is the same whatever the index of the free value. -/
theorem fmul_of_isFinite {j : Nat} {a b : F32} (k : Nat) (h : isFinite (fmul j a b) = true) :
    fmul k a b = fmul j a b := by
  obtain heq | ⟨-, hNaN⟩ := fmul_index k j a b
  · exact heq
  · rw [hNaN, isFinite_of_isNaN (isNaN_quietNaN j)] at h
    cases h

/-- A finite number less itself is `+0.0`. -/
theorem fsub_self (k : Nat) {a : F32} (h : isFinite a = true) : fsub k a a = posZero := by
  have hzero : fval a + fval (fneg a) = 0 := by rw [fval_fneg, add_neg_cancel]
  rw [fsub, fadd_finite k h ((isFinite_fneg a).trans h), if_pos hzero, fsign_fneg, Bool.and_not_self]
  rfl

/-- The `(+) +0.0` that turns a `-0.0` into `+0.0` does not show after the subtraction. -/
theorem fsub_fadd_posZero (j k : Nat) {a : F32} (h : isFinite a = true) :
    fsub k (fadd j posZero a) a = posZero := by
  by_cases hz : a = negZero
  · rw [hz, fadd_comm, fadd_posZero_of_isZero j rfl]
    exact fadd_posZero_of_isZero k rfl
  · rw [posZero_fadd j (isNaN_of_isFinite h) hz, fsub_self k h]

/-- From zero state `b0 = 1.0` makes the output the input, but for the sign of `-0.0`. -/
theorem bqStep_output_of_unity (k : Nat) {f : Shlf} {x : F32} (hb0 : f.coef.b0 = one) (hz1 : f.z1 = posZero)
    (hx : isFinite x = true) : (bqStep binary32 k f x).2 = fadd (k + 1) posZero x := by
  simp only [bqStep, binary32_add, binary32_mul, hb0, hz1, fmul_one k (isNaN_of_isFinite hx)]

/-- With `b1 = a1` and `b2 = a2` an output that is the input leaves a zero state as it is: each product is subtracted
from itself. -/
theorem bqStep_state_of_unity (k : Nat) {f : Shlf} {x : F32} (hy : (bqStep binary32 k f x).2 = x)
    (hb1 : f.coef.b1 = f.coef.a1) (hb2 : f.coef.b2 = f.coef.a2) (hz1 : f.z1 = posZero) (hz2 : f.z2 = posZero)
    (h1 : isFinite (fmul 0 x f.coef.a1) = true) (h2 : isFinite (fmul 0 x f.coef.a2) = true) :
    (bqStep binary32 k f x).1 = f := by
  have hstep := biquadStepIsTransposedDirectForm binary32 k f x _ rfl
  rw [hstep] at hy ⊢
  have hy : binary32.add (k + 1) f.z1 (binary32.mul k x f.coef.b0) = x := hy
  rw [hy, hb1, hb2, hz2]
  simp only [binary32_add, binary32_sub, binary32_mul, fmul_of_isFinite _ h1, fmul_of_isFinite _ h2,
    fsub_fadd_posZero _ _ h1, fsub_self _ h2]
  exact congrArg₂ (fun z1 z2 => { f with z1 := z1, z2 := z2 }) hz1.symm hz2.symm

/-- Settles O40: `SD_UNITY` for either type; the output of the unity filter, then its state. -/
theorem unityShelfIsTheIdentityFromZeroState : Obligations.UnityShelfIsTheIdentityFromZeroState := by
  refine ⟨fun cfg t g c hg hc => ?_, fun k f x hb0 hb1 hb2 hz1 hz2 hx h1 h2 => ?_⟩
  · cases t with
    | low => exact shelfDesign_unity false hg hc
    | high => exact shelfDesign_unity true hg hc
  · have hout := bqStep_output_of_unity k hb0 hz1 hx
    constructor
    · intro hne
      have hy := hout.trans (posZero_fadd (k + 1) (isNaN_of_isFinite hx) hne)
      exact Prod.ext (bqStep_state_of_unity k hy hb1 hb2 hz1 hz2 h1 h2) hy
    · rintro rfl
      exact hout

end Sys2Proof.Proofs
end

section
/-! PROOFS. The statements of spec/42_svf_wah.md: the sample of `WAH` and its parts (R140 to R144), its `PROC` (R145),
its LFO at a rate of zero and at a negative one (R145), the cutoff of a pinned envelope (R146), and the commands that
write a parameter register, on `WAH` and on the other units (R146 to R149, R166, R167, R188, R189, R208 to R210). -/

namespace Sys2Proof.Proofs

open Sys2Proof Sys2Proof.Machine Sys2Proof.Claims

/-! ## The parameter commands (R146 to R149, R166, R167, R188, R189, R208 to R210) -/

/-- Settles O29: the meanings of the eleven commands. -/
theorem parameterCommandsWriteTheirRegister : Obligations.ParameterCommandsWriteTheirRegister :=
  fun _ _ _ => ⟨rfl, rfl, rfl, rfl, rfl, rfl, rfl, rfl, rfl, rfl, rfl⟩

/-! ## One sample (R140 to R144) -/

/-- Settles O42: LFO, coefficients, recursion, the two sources of the envelope, the enable bit. -/
theorem wahSampleFollowsItsFormulas : Obligations.WahSampleFollowsItsFormulas := by
  intro N k fs w x f q hp bp env s
  refine ⟨⟨rfl, rfl⟩, ⟨rfl, rfl⟩, ?_, rfl, rfl, fun _ => rfl⟩
  rintro rfl rfl
  rfl

/-- The sample spelled out in the statements is the model's, for either source of the envelope. -/
theorem wahOne_eq_wahFilter (N : Numerics) (fs : F32) (k : Nat) (w : Wah) (e : Option F32) (x : F32) :
    wahOne N fs k w (e, x) = wahFilter N k fs e w x := by
  cases e <;> rfl

/-! ## `PROC.WAH` (R87, R145) -/

/-- The samples of `WAH` are `wahOne` on its registers; the enable bit chooses between its outputs and the inputs. -/
theorem runSamples_wah (ps : List (Option F32 × F32)) (s : State) :
    runSamples .wah ps s =
      .ok ({ s with
          wah := (fold (wahOne (numOf s.cfg) s.cfg.fs) 20 s.draws s.wah ps).1
          draws := s.draws + 20 * ps.length },
        if s.wah.en then (fold (wahOne (numOf s.cfg) s.cfg.fs) 20 s.draws s.wah ps).2 else ps.map Prod.snd) := by
  induction ps generalizing s with
  | nil => simp [runSamples, fold]
  | cons p ps ih =>
    obtain ⟨e, x⟩ := p
    have hdraws : s.draws + 20 * ((e, x) :: ps).length = s.draws + 20 + 20 * ps.length := by
      rw [List.length_cons]
      ring
    have hrest := ih (wahSample e x s).1
    rw [wahSample_wah, wahFilter_en, ← wahOne_eq_wahFilter] at hrest
    rw [hdraws]
    exact runSamples_cons_eq_ok.2 ⟨_, _, _, rfl, hrest,
      by rw [← enabledOut_cons, wahSample, ← wahOne_eq_wahFilter]; rfl⟩

theorem length_samples {sc : Bool} {n : Nat} {s : State} (hn : n ≤ available sc s) : (samples sc n s).length = n := by
  rw [← List.length_map Prod.snd, samples_map_snd hn, List.length_take_of_le (hn.trans (available_le_length sc s))]

/-- With `SC = 1` every sample has its side-chain sample. -/
theorem isSome_of_mem_samples {n : Nat} {s : State} {p : Option F32 × F32} (hp : p ∈ samples true n s) :
    p.1.isSome = true := by
  obtain ⟨e, x⟩ := p
  obtain ⟨he, -⟩ := List.of_mem_zip hp
  obtain ⟨v, -, rfl⟩ := List.mem_map.1 he
  rfl

/-- Samples with a side-chain do not consult the LFO: the phase stays (R140). -/
theorem fold_wahOne_phase (N : Numerics) (fs : F32) (k : Nat) (w : Wah) {ps : List (Option F32 × F32)}
    (hps : ∀ p ∈ ps, p.1.isSome = true) : (fold (wahOne N fs) 20 k w ps).1.phase = w.phase := by
  induction ps generalizing k w with
  | nil => rfl
  | cons p ps ih =>
    obtain ⟨e, x⟩ := p
    obtain ⟨v, rfl⟩ := Option.isSome_iff_exists.1 (hps (e, x) List.mem_cons_self)
    exact ih (k + 20) (wahOne N fs k w (some v, x)).1 fun p hp => hps p (List.mem_cons_of_mem _ hp)

/-- Settles O43: a block of `WAH` completes with the registers its samples leave. -/
theorem procWahRunsTheStateVariableFilter : Obligations.ProcWahRunsTheStateVariableFilter := by
  refine fun n sc s hn => ⟨?_, ?_⟩
  · have hrun := runSamples_wah (samples sc n s) s
    rw [length_samples hn, samples_map_snd hn] at hrun
    exact exec_procCommand_of_samples (u := .wah) (fun _ => rfl) rfl hn hrun
  · rintro rfl
    exact fold_wahOne_phase _ _ _ _ fun _ => isSome_of_mem_samples

/-! ## Signs of sums and quotients -/

theorem posZero_fle_iff {a : F32} : fle posZero a = true ↔ isNaN a = false ∧ 0 ≤ fval a := by
  rw [fle_iff, show fval posZero = 0 from rfl, and_iff_right (show isNaN posZero = false from rfl)]

theorem flt_posZero_iff {a : F32} : flt a posZero = true ↔ isNaN a = false ∧ fval a < 0 := by
  rw [flt_iff, show fval posZero = 0 from rfl, and_iff_right (show isNaN posZero = false from rfl)]

theorem flt_of_flt_of_fle {a b c : F32} (h : flt a b = true) (h' : fle b c = true) : flt a c = true := by
  obtain ⟨ha, -, hab⟩ := flt_iff.1 h
  obtain ⟨-, hc, hbc⟩ := fle_iff.1 h'
  exact flt_iff.2 ⟨ha, hc, hab.trans_le hbc⟩

section packF
variable {m : Nat} (hm : m ≤ infMag)
include hm

theorem fval_packF (s : Bool) : fval (packF s m) = if s then -(scaledMag m : Int) else (scaledMag m : Int) := by
  have hlt : m < 2 ^ 31 := hm.trans_lt (by decide)
  rw [fval, fsign_packF s hlt, fmag_packF s hlt]

theorem posZero_fle_packF : fle posZero (packF false m) = true := by
  refine posZero_fle_iff.2 ⟨isNaN_packF false hm, ?_⟩
  rw [fval_packF hm]
  exact Int.natCast_nonneg _

theorem packF_flt_posZero (h0 : 0 < m) : flt (packF true m) posZero = true := by
  refine flt_posZero_iff.2 ⟨isNaN_packF true hm, ?_⟩
  have hne := mt scaledMag_eq_zero.1 h0.ne'
  rw [fval_packF hm, if_pos rfl]
  omega

end packF

/-- A finite number that is not negative plus a number that is not negative is one that is not negative. -/
theorem posZero_fle_fadd (k : Nat) {a b : F32} (hfin : isFinite a = true) (ha : fle posZero a = true)
    (hb : fle posZero b = true) : fle posZero (fadd k a b) = true := by
  obtain ⟨-, ha0⟩ := posZero_fle_iff.1 ha
  obtain ⟨hbn, hb0⟩ := posZero_fle_iff.1 hb
  obtain hbf | hbi := isZero_or_finite_or_inf hbn
  · rw [fadd_finite k hfin hbf]
    split
    next h =>
      rw [packF_zero_sum h]
      split <;> decide
    next =>
      rw [decide_eq_false (by omega)]
      exact posZero_fle_packF (roundMag_le_infMag _ _)
  · rw [fadd_inf_right k hfin hbi]
    exact hb

/-- A quotient of at least one unit does not round to zero. -/
theorem roundMag_pos {n d : Nat} (hd : 0 < d) (h : d ≤ n) : 0 < roundMag n d := by
  have hone := roundMag_scaledMag (m := 1) (by decide) hd
  rw [show scaledMag 1 = 1 from rfl, Nat.one_mul] at hone
  exact hone.symm.trans_le (roundMag_mono d h)

/-- A number other than zero is negative exactly under its sign bit. -/
theorem fsign_eq_decide {a : F32} (hz : fval a ≠ 0) : fsign a = decide (fval a < 0) := by
  rw [fval] at hz ⊢
  cases fsign a
  · exact (decide_eq_false (Int.natCast_nonneg _).not_gt).symm
  · refine (decide_eq_true ?_).symm
    simp only [if_true] at hz ⊢
    omega

/-- `TWO_PI32` over a finite number other than zero has that number's sign and is not zero: no divisor is large enough
for the quotient to vanish. -/
theorem exists_twoPi32_fdiv (k : Nat) {a : F32} (hfin : isFinite a = true) (hz : fval a ≠ 0) :
    ∃ m, 0 < m ∧ m ≤ infMag ∧ fdiv k twoPi32 a = packF (decide (fval a < 0)) m := by
  have hmag : fmag a ≠ 0 := mt fval_eq_zero.2 hz
  have hpos : 0 < scaledMag (fmag a) := Nat.pos_of_ne_zero (mt scaledMag_eq_zero.1 hmag)
  have hle : scaledMag (fmag a) ≤ scaledMag (fmag twoPi32) * 2 ^ 149 :=
    (scaledMag_mono (n := infMag) (isFinite_iff.1 hfin).le).trans (by decide +kernel)
  refine ⟨_, roundMag_pos hpos hle, roundMag_le_infMag _ _, ?_⟩
  rw [fdiv_finite k rfl hfin (beq_false_of_ne hmag), show fsign twoPi32 = false from rfl, Bool.false_bne,
    fsign_eq_decide hz]

/-- The advance of the phase is not negative. -/
theorem posZero_fle_twoPi32_fdiv (k : Nat) {a : F32} (hfin : isFinite a = true) (h : fgt a posZero = true) :
    fle posZero (fdiv k twoPi32 a) = true := by
  obtain ⟨-, -, hpos⟩ := flt_iff.1 h
  have hpos : 0 < fval a := hpos
  obtain ⟨m, -, hm, heq⟩ := exists_twoPi32_fdiv k hfin hpos.ne'
  rw [heq, decide_eq_false hpos.not_gt]
  exact posZero_fle_packF hm

/-- The period of a negative rate is negative. -/
theorem twoPi32_fdiv_flt_posZero (k : Nat) {a : F32} (hfin : isFinite a = true) (h : flt a posZero = true) :
    flt (fdiv k twoPi32 a) posZero = true := by
  obtain ⟨-, hneg⟩ := flt_posZero_iff.1 h
  obtain ⟨m, h0, hm, heq⟩ := exists_twoPi32_fdiv k hfin hneg.ne
  rw [heq, decide_eq_true hneg]
  exact packF_flt_posZero hm h0

theorem isFinite_of_isZero {a : F32} (h : isZero a = true) : isFinite a = true := by
  rw [isFinite_iff, isZero_iff.1 h]
  decide

/-- A finite difference is the same whatever the index of the free value. -/
theorem fsub_of_isFinite {j : Nat} {a b : F32} (k : Nat) (h : isFinite (fsub j a b) = true) :
    fsub k a b = fsub j a b := by
  obtain heq | ⟨-, hNaN⟩ := fsub_index k j a b
  · exact heq
  · rw [hNaN, isFinite_of_isNaN (isNaN_quietNaN j)] at h
    cases h

/-- Adding a zero of either sign changes no number but `-0.0`. -/
theorem fadd_isZero (k : Nat) {a z : F32} (h : isNaN a = false) (ha : a ≠ negZero) (hz : isZero z = true) :
    fadd k a z = a := by
  have hpos : fadd k a posZero = a := by rw [fadd_posZero k h, if_neg ha]
  obtain rfl | rfl := isZero_cases (isZero_iff.1 hz)
  · exact hpos
  · obtain hf | hi := isZero_or_finite_or_inf h
    · by_cases h0 : fval a = 0
      · obtain rfl := (isZero_cases (fval_eq_zero.1 h0)).resolve_right ha
        rfl
      · refine Eq.trans ?_ hpos
        rw [fadd_finite k hf rfl, fadd_finite k hf rfl, show fval negZero = 0 from rfl, show fval posZero = 0 from rfl,
          Int.add_zero, if_neg h0, if_neg h0]
    · exact fadd_inf_left k hi rfl fun h => absurd h (by decide)

/-! ## The LFO at a rate of zero and at a negative one (R142, R145) -/

/-- At an angle that is a zero the envelope is `0.5` (`SIN_ZERO`). -/
theorem wahLfoValue_of_zero_angle (k : Nat) {w : Wah} (h : isZero (fmul k w.phase w.lfoFreq) = true) :
    wahLfoValue binary32 k w = half := by
  simp only [wahLfoValue, lfoAngle, binary32_add, binary32_mul, binary32_sin]
  rw [sin32_zero _ h]
  exact fadd_isZero _ rfl (by decide) (isZero_fmul _ rfl (isFinite_of_isZero h) (.inr h))

/-- Settles O44: at rate `+0.0` the period is infinite, which no phase exceeds; at a negative one it is negative, which
every phase exceeds. -/
theorem wahEnvelopeStandsStillAtZeroOrNegativeRate : Obligations.WahEnvelopeStandsStillAtZeroOrNegativeRate := by
  refine fun k fs w hfs hpos =>
    ⟨fun hrate hphase => ⟨?_, ?_⟩, fun hfin hneg hphase hnonneg => ⟨?_, fun hzero => ?_⟩⟩
  · exact wahLfoValue_of_zero_angle k (isZero_fmul k hphase (by rw [hrate]; rfl) (.inr (by rw [hrate]; rfl)))
  · have hperiod : fdiv (k + 5) twoPi32 w.lfoFreq = 0x7F800000#32 := by rw [hrate]; rfl
    exact if_neg (by rw [binary32_lt, binary32_div, hperiod, posInf_flt]; decide)
  · have hadvanced := posZero_fle_fadd (k + 4) hphase hnonneg (posZero_fle_twoPi32_fdiv (k + 3) hfs hpos)
    exact if_pos (flt_of_flt_of_fle (twoPi32_fdiv_flt_posZero (k + 5) hfin hneg) hadvanced)
  · exact wahLfoValue_of_zero_angle k (isZero_fmul k hphase hfin (.inl (by rw [hzero]; rfl)))

/-! ## The pinned envelope (R141, R146, R151) -/

/-- Settles O45: a finite span times `+0.0` is a zero, which adds nothing to the minimum cutoff. -/
theorem pinnedEnvelopeKeepsTheMinimumCutoff : Obligations.PinnedEnvelopeKeepsTheMinimumCutoff := by
  intro k fs w hspan hne
  have hmin : isNaN w.cutoffMin = false := by
    rw [← Bool.not_eq_true]
    intro h
    rw [fsub_nan 0 (.inr h), isFinite_of_isNaN (isNaN_quietNaN 0)] at hspan
    cases hspan
  have hcut : ∀ j, wahCutoff binary32 j w posZero = w.cutoffMin := fun j => by
    have hspan' : isFinite (fsub j w.cutoffMax w.cutoffMin) = true := by
      rw [fsub_of_isFinite j hspan]
      exact hspan
    exact fadd_isZero (j + 2) hmin hne (isZero_fmul (j + 1) hspan' rfl (.inr rfl))
  exact ⟨hcut k, by rw [wahCoeffs, hcut]; rfl⟩

end Sys2Proof.Proofs
end

section
/-! PROOFS. The statements of spec/43_delay_flanger.md: the tap index (R162, R163), one sample (R164), its fault at a rate
that is not finite (R166), its `PROC` (R165), the unit at rest, and the dry output (R169). -/

namespace Sys2Proof.Proofs

open Sys2Proof Sys2Proof.Machine Sys2Proof.Claims

/-! ## Products -/

theorem isFinite_left_of_fmul {k : Nat} {a b : F32} (h : isFinite (fmul k a b) = true) : isFinite a = true := by
  have hn := isNaN_of_isFinite h
  rw [← Bool.not_eq_true, isNaN_fmul] at hn
  simp only [not_or, not_and, Bool.not_eq_true] at hn
  obtain ⟨na, nb, hzero, -⟩ := hn
  obtain fa | ia := isZero_or_finite_or_inf na
  · exact fa
  · rw [fmul_inf_left k ia nb (hzero ia), isFinite_iff, fmag_packF _ (by decide)] at h
    exact absurd h (by decide)

theorem isFinite_right_of_fmul {k : Nat} {a b : F32} (h : isFinite (fmul k a b) = true) : isFinite b = true :=
  isFinite_left_of_fmul (a := b) (fmul_comm k a b ▸ h)

/-- A product that is a number is a zero if a factor is. -/
theorem isZero_fmul_left {k : Nat} {a b : F32} (hn : isNaN (fmul k a b) = false) (ha : isZero a = true) :
    isZero (fmul k a b) = true := by
  rw [← Bool.not_eq_true, isNaN_fmul] at hn
  simp only [not_or, not_and, Bool.not_eq_true] at hn
  obtain ⟨-, nb, -, hinf⟩ := hn
  obtain fb | ib := isZero_or_finite_or_inf nb
  · exact isZero_fmul k (isFinite_of_isZero ha) fb (.inl ha)
  · exact absurd ib (by simp [hinf ha])

/-- A finite number times one of magnitude at most `1.0` does not grow. -/
theorem exists_fmul_of_le_one (k : Nat) {a c : F32} (ha : isFinite a = true) (hc : fmag c ≤ fmag one) :
    ∃ m ≤ fmag a, fmul k a c = packF (fsign a != fsign c) m := by
  have hfin : isFinite c = true := isFinite_iff.2 (hc.trans_lt (by decide))
  refine ⟨_, ?_, fmul_finite k ha hfin⟩
  calc roundMag (scaledMag (fmag a) * scaledMag (fmag c)) (2 ^ 149)
      ≤ roundMag (scaledMag (fmag a) * 2 ^ 149) (2 ^ 149) :=
        roundMag_mono _ (Nat.mul_le_mul_left _ (scaledMag_one ▸ scaledMag_mono hc))
    _ = fmag a := roundMag_scaledMag (isFinite_iff.1 ha).le (by positivity)

/-! ## The LFO value and the tap index (R162, R163) -/

theorem fmag_le_one_of_within {c : F32} (h : within minusOne one c = true) : fmag c ≤ fmag one := by
  simp only [within, fle, Bool.and_eq_true, decide_eq_true_eq] at h
  obtain ⟨⟨-, hlo⟩, -, hhi⟩ := h
  rw [show orderKey minusOne = -(fmag one : Int) from rfl] at hlo
  rw [show orderKey one = (fmag one : Int) from rfl] at hhi
  unfold orderKey at hlo hhi
  cases hs : fsign c <;> simp only [hs, Bool.false_eq_true, if_true, if_false] at hlo hhi <;> omega

/-- `0.5` less a number of magnitude at most `0.5` lies in `[0, 1]`. -/
theorem exists_half_fsub (k : Nat) (s : Bool) {m : Nat} (hm : m ≤ fmag half) :
    ∃ r ≤ fmag one, fsub k half (packF s m) = packF false r := by
  have hinf : m ≤ infMag := hm.trans (by decide)
  have hfin : isFinite (packF s m) = true := by
    rw [isFinite_iff, fmag_packF s (hinf.trans_lt (by decide))]
    exact hm.trans_lt (by decide)
  have hval : -(2 ^ 148 : Int) ≤ fval (packF s m) ∧ fval (packF s m) ≤ 2 ^ 148 := by
    have hle : scaledMag m ≤ 2 ^ 148 := (scaledMag_mono hm).trans (by decide +kernel)
    rw [fval_packF hinf]
    cases s <;> simp only [Bool.false_eq_true, if_true, if_false] <;> omega
  have hhalf : fval half = 2 ^ 148 := by decide +kernel
  rw [fsub, fadd_finite k rfl ((isFinite_fneg _).trans hfin), fval_fneg, hhalf]
  split
  next => exact ⟨0, Nat.zero_le _, rfl⟩
  next =>
    rw [decide_eq_false (by omega)]
    refine ⟨_, ?_, rfl⟩
    calc roundMag ((2 : Int) ^ 148 + -fval (packF s m)).natAbs 1
        ≤ roundMag (scaledMag (fmag one) * 1) 1 := roundMag_mono 1 (by rw [scaledMag_one]; omega)
      _ = fmag one := roundMag_scaledMag (by decide) Nat.one_pos

/-- At a finite angle the LFO value lies in `[0, 1]` (`COS_RANGE`). -/
theorem exists_flngLfoValue (k : Nat) {f : Flng} (h : isFinite (lfoAngle binary32 k f.phase f.lfoFreq) = true) :
    ∃ r ≤ fmag one, flngLfoValue binary32 k f = packF false r := by
  have hcos := fmag_le_one_of_within (cos32_range .binary32 h)
  obtain ⟨m, hm, hmul⟩ := exists_fmul_of_le_one (k + 1) (a := half) rfl hcos
  simp only [flngLfoValue, binary32_sub, binary32_mul, binary32_cos, hmul]
  exact exists_half_fsub (k + 2) _ hm

/-- Every integer of at most 24 bits is a magnitude. -/
theorem exists_scaledMag_eq {n : Nat} (hn : n < 2 ^ 24) : ∃ m < infMag, scaledMag m = n * 2 ^ 149 := by
  rcases Nat.eq_zero_or_pos n with rfl | hpos
  · exact ⟨0, by decide, rfl⟩
  · have hlog : Nat.log2 n < 24 := (Nat.log2_lt hpos.ne').2 hn
    have hlow : 2 ^ 23 ≤ n * 2 ^ (23 - Nat.log2 n) := by
      calc 2 ^ 23 = 2 ^ Nat.log2 n * 2 ^ (23 - Nat.log2 n) := by rw [← pow_add]; congr 1; omega
        _ ≤ n * 2 ^ (23 - Nat.log2 n) := Nat.mul_le_mul_right _ (Nat.log2_self_le hpos.ne')
    have hhigh : n * 2 ^ (23 - Nat.log2 n) < 2 ^ 24 := by
      calc n * 2 ^ (23 - Nat.log2 n) < 2 ^ (Nat.log2 n + 1) * 2 ^ (23 - Nat.log2 n) :=
            Nat.mul_lt_mul_of_pos_right Nat.lt_log2_self (by positivity)
        _ = 2 ^ 24 := by rw [← pow_add]; congr 1; omega
    refine ⟨(126 + Nat.log2 n) * 2 ^ 23 + n * 2 ^ (23 - Nat.log2 n), by unfold infMag; omega, ?_⟩
    rw [scaledMag_significand hhigh.le (.inr hlow), mul_assoc, ← pow_add]
    congr 2
    omega

/-- `i2f` is exact on integers of at most 24 bits (R11). -/
theorem exists_i2f {n : Nat} (hn : n < 2 ^ 24) : ∃ m < infMag, scaledMag m = n * 2 ^ 149 ∧ i2f n = packF false m := by
  obtain ⟨m, hm, hval⟩ := exists_scaledMag_eq hn
  refine ⟨m, hm, hval, ?_⟩
  rw [i2f, ← hval, ← Nat.mul_one (scaledMag m), roundMag_scaledMag hm.le Nat.one_pos]

/-- A value in `[0, 1]` has its tap index inside the buffer: the product with `CAP - 1` is at most `CAP - 1`. -/
theorem exists_flngIndex (j : Nat) {cap r : Nat} (hpos : 1 ≤ cap) (hcap : cap < 2 ^ 24) (hr : r ≤ fmag one) :
    ∃ i : Nat, flngIndex binary32 j cap (packF false r) = some (i : Int) ∧ i < cap := by
  have hr31 : r < 2 ^ 31 := hr.trans_lt (by decide)
  obtain ⟨c, hc, hval, hi2f⟩ := exists_i2f (n := cap - 1) (by omega)
  have hc31 : c < 2 ^ 31 := hc.trans (by decide)
  obtain ⟨m, hm, hmul⟩ := exists_fmul_of_le_one j (a := packF false c) (c := packF false r)
    (isFinite_iff.2 ((fmag_packF false hc31).trans_lt hc)) ((fmag_packF false hr31).trans_le hr)
  rw [fmag_packF false hc31] at hm
  rw [fsign_packF false hc31, fsign_packF false hr31, bne_self_eq_false] at hmul
  refine ⟨(2 * scaledMag m + 2 ^ 149) / 2 ^ 150, ?_, ?_⟩
  · rw [flngIndex, binary32_mul, hi2f, fmul_comm, hmul]
    exact roundI_nonneg (hm.trans_lt hc)
  · have hle := scaledMag_mono hm
    rw [hval] at hle
    rw [Nat.div_lt_iff_lt_mul (by positivity)]
    omega

/-- Settles O46: the LFO value lies in `[0, 1]`, and such a value has its index inside the buffer. -/
theorem flangerIndexIsInsideTheBuffer : Obligations.FlangerIndexIsInsideTheBuffer := by
  intro k j f hpos hcap hangle
  obtain ⟨r, hr, hv⟩ := exists_flngLfoValue k hangle
  rw [hv]
  exact exists_flngIndex j hpos hcap hr

/-- A NaN angle has no tap index (R163). -/
theorem flngIndex_of_nan_angle (k j cap : Nat) {f : Flng} (h : isNaN (lfoAngle binary32 k f.phase f.lfoFreq) = true) :
    flngIndex binary32 j cap (flngLfoValue binary32 k f) = none := by
  have hv : isNaN (flngLfoValue binary32 k f) = true := by
    refine (isNaN_fsub _).2 (.inr (.inl ((isNaN_fmul _).2 (.inr (.inl ?_)))))
    exact cos32_nan .binary32 h
  exact roundI_of_not_finite (isFinite_of_isNaN ((isNaN_fmul _).2 (.inl hv)))

/-! ## One sample (R164) -/

/-- A sample whose index lies inside the buffer, at a finite rate. -/
theorem flngFilter_of_ringAt {k i : Nat} {cfg : Cfg} {f : Flng} {wet : F32} (x : F32)
    (hfreq : isFinite f.lfoFreq = true)
    (hi : flngIndex (numOf cfg) (k + 6) f.cap (flngLfoValue (numOf cfg) k f) = some (i : Int))
    (hwet : ringAt cfg.tapOrigin f.buf i = some wet) :
    flngFilter k cfg f x =
      .ok ({ (flngLfoNext (numOf cfg) k cfg.fs f).1 with buf := ringPush f.buf x },
        mix (numOf cfg) (k + 7) wet x f.wetGamma) :=
  flngFilter_of_tap x (flngTap_eq_ok.2 ⟨hfreq, i, hi, hwet⟩)

/-- A sample that has a meaning has read the buffer at its index and mixed what it read with the input. -/
theorem exists_ringAt_of_flngFilter {k : Nat} {cfg : Cfg} {f g : Flng} {x y : F32}
    (h : flngFilter k cfg f x = .ok (g, y)) :
    ∃ (i : Nat) (wet : F32),
      flngIndex (numOf cfg) (k + 6) f.cap (flngLfoValue (numOf cfg) k f) = some (i : Int) ∧
      ringAt cfg.tapOrigin f.buf i = some wet ∧ y = mix (numOf cfg) (k + 7) wet x f.wetGamma := by
  cases ht : flngTap cfg.tapOrigin f.buf f.lfoFreq
      (flngIndex (numOf cfg) (k + 6) f.cap (flngLfoNext (numOf cfg) k cfg.fs f).2) with
  | error why => rw [flngFilter_of_tap_error x ht] at h; cases h
  | ok wet =>
    rw [flngFilter_of_tap x ht] at h
    cases h
    obtain ⟨-, i, hi, hwet⟩ := flngTap_eq_ok.1 ht
    exact ⟨i, wet, hi, hwet, rfl⟩

/-- `RingAt` inside the buffer, under either origin (R63). -/
theorem ringAt_eq_getElem? (o : TapOrigin) {b : List F32} {i : Nat} (h : i < b.length) :
    ringAt o b i = b[match o with | .oldest => i | .newest => b.length - 1 - i]? := by
  cases o with
  | oldest => rfl
  | newest => exact ringAt_newest b i h

/-- Settles O47: the sample with the formulas of the LFO, the index and the mix written out. -/
theorem flangerReadsMixesThenPushesTheDrySample : Obligations.FlangerReadsMixesThenPushesTheDrySample := by
  rintro k cfg N f x v wet i rfl hfreq rfl hi hwet hlen
  have hpush : f.buf.drop 1 ++ [x] = ringPush f.buf x := by
    cases hb : f.buf with
    | nil => simp [hb] at hlen
    | cons b bs => rfl
  rw [hpush]
  exact flngFilter_of_ringAt x hfreq hi ((ringAt_eq_getElem? _ hlen).trans hwet)

/-! ## A rate that is not finite (R163, R166) -/

/-- A sample without a meaning, if one is there, ends the `PROC` in its fault. -/
theorem exec_procFlng_of_error {n : Nat} {s : State} {x : F32} {xs : List F32} {why : NoMeaning} (hn : 1 ≤ n)
    (hin : s.in0 = x :: xs) (h : flngFilter s.draws s.cfg s.flng x = .error why) :
    exec (.procFlng n) s = .fault (faultOf why) := by
  obtain ⟨left, rfl⟩ := Nat.exists_eq_add_one.2 hn
  exact procLoop_cons_error .flng (left + 1) left hin (by simp [unitSample, flngSample, h])

/-- At a rate that is not finite a sample faults, in whatever numerics. -/
theorem flngFilter_of_not_finite (k : Nat) (cfg : Cfg) {f : Flng} (x : F32) (h : isFinite f.lfoFreq = false) :
    flngFilter k cfg f x = .error .round ∨ flngFilter k cfg f x = .error .tapIndex :=
  (flngTap_of_not_finite h).imp (flngFilter_of_tap_error x) (flngFilter_of_tap_error x)

/-- At a NaN rate `round_i` has no meaning, under binary32. -/
theorem flngFilter_of_nan_rate (k : Nat) {cfg : Cfg} {f : Flng} (x : F32) (hnum : cfg.num = .binary32)
    (h : isNaN f.lfoFreq = true) : flngFilter k cfg f x = .error .round := by
  have hi := flngIndex_of_nan_angle k (k + 6) f.cap (f := f) ((isNaN_fmul k).2 (.inr (.inl h)))
  refine flngFilter_of_tap_error x ?_
  rw [numOf_binary32 hnum]
  exact congrArg (flngTap _ _ _) hi

/-- Settles O51: the tap read faults at such a rate; a NaN rate makes the angle, and so the index, meaningless. -/
theorem nonFiniteLfoFrequencyFaultsTheNextFlangerSample :
    Obligations.NonFiniteLfoFrequencyFaultsTheNextFlangerSample := by
  refine ⟨fun k cfg f x => flngFilter_of_not_finite k cfg x, fun n s hn hne hfreq => ?_⟩
  obtain ⟨x, xs, hin⟩ := List.exists_cons_of_ne_nil hne
  refine ⟨?_, fun hnum hnan => ?_⟩
  · exact (flngFilter_of_not_finite s.draws s.cfg x hfreq).imp (exec_procFlng_of_error hn hin)
      (exec_procFlng_of_error hn hin)
  · exact exec_procFlng_of_error hn hin (flngFilter_of_nan_rate s.draws x hnum hnan)

/-! ## The dry output (R161, R169) -/

/-- At a gain of `+0.0` the wet part of the mix is a zero and the dry part the input. -/
theorem exists_mix_posZero (k : Nat) {wet x : F32} (hwet : isFinite wet = true) (hx : isNaN x = false) :
    ∃ z, isZero z = true ∧ mix binary32 k wet x posZero = fadd (k + 3) x z := by
  have hgain : fsub (k + 1) one posZero = one := fadd_isZero (k + 1) rfl (by decide) rfl
  refine ⟨fmul k wet posZero, isZero_fmul k hwet rfl (.inr rfl), ?_⟩
  simp only [mix, binary32_add, binary32_sub, binary32_mul]
  rw [hgain, fmul_one _ hx, fadd_comm]

theorem isZero_fadd (k : Nat) {a b : F32} (ha : isZero a = true) (hb : isZero b = true) :
    isZero (fadd k a b) = true := by
  have hsum : fval a + fval b = 0 := by
    rw [fval_eq_zero.2 (isZero_iff.1 ha), fval_eq_zero.2 (isZero_iff.1 hb), Int.add_zero]
  rw [fadd_finite k (isFinite_of_isZero ha) (isFinite_of_isZero hb), if_pos hsum, isZero_iff]
  exact fmag_packF _ (by decide)

theorem ringAt_mem {o : TapOrigin} {b : List F32} {i : Nat} {v : F32} (h : ringAt o b i = some v) : v ∈ b := by
  cases o with
  | oldest => exact List.mem_of_getElem? h
  | newest => exact List.mem_reverse.1 (List.mem_of_getElem? h)

/-- Settles O50: whatever the LFO, what is read is an entry of the buffer, which the gain makes a zero. -/
theorem flangerIsDryAtZeroGamma : Obligations.FlangerIsDryAtZeroGamma := by
  intro k cfg f g x y hnum h hgamma hbuf hx
  obtain ⟨i, wet, -, hread, rfl⟩ := exists_ringAt_of_flngFilter h
  obtain ⟨z, hz, hmix⟩ := exists_mix_posZero (k + 7) (hbuf wet (ringAt_mem hread)) hx
  rw [numOf_binary32 hnum, hgamma, hmix]
  refine ⟨fun hne => fadd_isZero _ hx hne hz, ?_⟩
  rintro rfl
  exact isZero_fadd _ rfl hz

/-! ## Running a datapath that may have no meaning -/

section foldE
variable {σ α : Type} {f : Nat → σ → α → Except NoMeaning (σ × F32)} {d k : Nat} {st st' : σ} {ys : List F32}

theorem foldE_cons_eq_ok {x : α} {xs : List α} : foldE f d k st (x :: xs) = .ok (st', ys) ↔
    ∃ s₁ y ys', f k st x = .ok (s₁, y) ∧ foldE f d (k + d) s₁ xs = .ok (st', ys') ∧ ys = y :: ys' := by
  cases hf : f k st x with
  | error why => simp [foldE, hf]
  | ok r => cases hr : foldE f d (k + d) r.1 xs <;> simp [foldE, hf, hr, Prod.ext_iff, eq_comm]

theorem foldE_length {xs : List α} (h : foldE f d k st xs = .ok (st', ys)) : ys.length = xs.length := by
  induction xs generalizing k st ys with
  | nil => cases h; rfl
  | cons x xs ih =>
    obtain ⟨s₁, y, ys', -, hrest, rfl⟩ := foldE_cons_eq_ok.1 h
    exact congrArg Nat.succ (ih hrest)

/-- Output `n` is that of one sample from the state after the first `n`. -/
theorem foldE_getElem? {xs : List α} {n : Nat} {x : α} (h : foldE f d k st xs = .ok (st', ys)) (hx : xs[n]? = some x) :
    ∃ s₁ ys₁ s₂ y, foldE f d k st (xs.take n) = .ok (s₁, ys₁) ∧ f (k + d * n) s₁ x = .ok (s₂, y) ∧
      ys[n]? = some y := by
  induction xs generalizing k st ys n with
  | nil => cases hx
  | cons v xs ih =>
    obtain ⟨s₁, y, ys', hv, hrest, rfl⟩ := foldE_cons_eq_ok.1 h
    cases n with
    | zero => cases hx; exact ⟨st, [], s₁, y, rfl, hv, rfl⟩
    | succ n =>
      obtain ⟨r, zs, s₂, w, htake, hw, hys⟩ := ih hrest hx
      have hk : k + d * (n + 1) = k + d + d * n := by ring
      exact ⟨r, y :: zs, s₂, w, foldE_cons_eq_ok.2 ⟨s₁, y, zs, hv, htake, rfl⟩, hk ▸ hw, hys⟩

end foldE

/-! ## The phases of a block (R162) -/

theorem sameF_fadd (k j : Nat) {a b b' : F32} (h : SameF b b') : SameF (fadd k a b) (fadd j a b') := by
  obtain rfl | ⟨hn, hn'⟩ := h
  · obtain heq | ⟨hk, hj⟩ := fadd_index k j a b
    · exact .inl heq
    · rw [hk, hj]
      exact .inr ⟨isNaN_quietNaN k, isNaN_quietNaN j⟩
  · exact .inr ⟨(isNaN_fadd k).2 (.inr (.inl hn)), (isNaN_fadd j).2 (.inr (.inl hn'))⟩

theorem sameF_fdiv (k j : Nat) (a b : F32) : SameF (fdiv k a b) (fdiv j a b) := by
  obtain heq | ⟨hk, hj⟩ := fdiv_index k j a b
  · exact .inl heq
  · rw [hk, hj]
    exact .inr ⟨isNaN_quietNaN k, isNaN_quietNaN j⟩

theorem flt_of_sameF {a a' b b' : F32} (ha : SameF a a') (hb : SameF b b') : flt a b = flt a' b' := by
  obtain rfl | ⟨hn, hn'⟩ := ha
  · obtain rfl | ⟨hn, hn'⟩ := hb
    · rfl
    · simp [flt, ordered, hn, hn']
  · simp [flt, ordered, hn, hn']

theorem sameF_ite {p q : Prop} [Decidable p] [Decidable q] (h : p ↔ q) (a : F32) {b b' : F32} (hb : SameF b b') :
    SameF (if p then a else b) (if q then a else b') := by
  by_cases hp : p
  · rw [if_pos hp, if_pos (h.1 hp)]
    exact .inl rfl
  · rw [if_neg hp, if_neg (mt h.2 hp)]
    exact hb

/-- The phase after a step depends on the free values in a NaN only. -/
theorem lfoAdvance_sameF (k j : Nat) (fs freq phase : F32) :
    SameF (lfoAdvance binary32 k fs freq phase) (lfoAdvance binary32 j fs freq phase) := by
  have hp := sameF_fadd (k + 1) (j + 1) (a := phase) (sameF_fdiv k j twoPi32 fs)
  have htest := flt_of_sameF (sameF_fdiv (k + 2) (j + 2) twoPi32 freq) hp
  exact sameF_ite (Bool.eq_iff_iff.1 htest) posZero hp

theorem phaseAfter_succ (N : Numerics) (fs freq phase : F32) (n : Nat) :
    phaseAfter N fs freq phase (n + 1) = phaseAfter N fs freq (lfoAdvance N 0 fs freq phase) n := by
  induction n with
  | zero => rfl
  | succ n ih => exact congrArg (lfoAdvance N 0 fs freq) ih

/-- Angles that stay finite do so from the state after a sample on. -/
theorem flngAngleFinite_of_succ {n d : Nat} {s : State} {g : Flng} {x y : F32} (hnum : s.cfg.num = .binary32)
    (h : flngAngleFinite s (n + 1)) (hf : flngFilter s.draws s.cfg s.flng x = .ok (g, y)) :
    flngAngleFinite { s with flng := g, draws := d } n := by
  intro i hi
  rw [flngFilter_frame hf]
  simp only [flngLfoNext, flngAngleFinite, numOf_binary32 hnum] at h ⊢
  obtain heq | ⟨-, hnan⟩ := lfoAdvance_sameF (s.draws + 3) 0 s.cfg.fs s.flng.lfoFreq s.flng.phase
  · rw [heq, ← phaseAfter_succ]
    exact h (i + 1) (by omega)
  · have hfin := isFinite_left_of_fmul (h 1 (by omega))
    rw [phaseAfter, phaseAfter, isFinite_of_isNaN hnan] at hfin
    cases hfin

/-! ## `PROC.FLNG` (R87, R165) -/

theorem capmax_of_cfgSizesOk {cfg : Cfg} (h : cfgSizesOk cfg = true) : cfg.capmax < 2 ^ 24 := by
  simp only [cfgSizesOk, Bool.and_eq_true, decide_eq_true_eq] at h
  tauto

/-- Under binary32 a sample at a finite angle has a meaning. -/
theorem exists_flngFilter {k : Nat} {cfg : Cfg} {f : Flng} (x : F32) (hnum : cfg.num = .binary32) (hf : f.Ok cfg)
    (hcap : cfg.capmax < 2 ^ 24) (h : isFinite (lfoAngle binary32 k f.phase f.lfoFreq) = true) :
    ∃ g y, flngFilter k cfg f x = .ok (g, y) := by
  obtain ⟨i, hi, hlt⟩ := flangerIndexIsInsideTheBuffer k (k + 6) f hf.pos (hf.fits.trans_lt hcap) h
  rw [← numOf_binary32 hnum] at hi
  have hsome : (ringAt cfg.tapOrigin f.buf i).isSome = true := by
    rw [ringAt_isSome, hf.buf]
    exact decide_eq_true hlt
  obtain ⟨wet, hwet⟩ := Option.isSome_iff_exists.1 hsome
  exact ⟨_, _, flngFilter_of_ringAt x (isFinite_right_of_fmul h) hi hwet⟩

/-- So has a block whose angles stay finite. -/
theorem exists_foldE_flngFilter (xs : List F32) {s : State} (hnum : s.cfg.num = .binary32) (hf : s.flng.Ok s.cfg)
    (hcap : s.cfg.capmax < 2 ^ 24) (h : flngAngleFinite s xs.length) :
    ∃ f ys, foldE (fun k f x => flngFilter k s.cfg f x) 11 s.draws s.flng xs = .ok (f, ys) := by
  induction xs generalizing s with
  | nil => exact ⟨s.flng, [], rfl⟩
  | cons x xs ih =>
    have hangle : isFinite (lfoAngle binary32 s.draws s.flng.phase s.flng.lfoFreq) = true := by
      have h0 := h 0 (Nat.succ_pos _)
      rw [numOf_binary32 hnum] at h0
      exact (congrArg isFinite (fmul_of_isFinite s.draws h0)).trans h0
    obtain ⟨g, y, hg⟩ := exists_flngFilter x hnum hf hcap hangle
    obtain ⟨f, ys, hrest⟩ := ih (s := { s with flng := g, draws := s.draws + 11 }) hnum (flngFilter_ok hf hg) hcap
      (flngAngleFinite_of_succ hnum h hg)
    exact ⟨f, y :: ys, foldE_cons_eq_ok.2 ⟨g, y, ys, hg, hrest, rfl⟩⟩

/-- A block pushes its inputs into the delay line and moves the phase, nothing else. -/
theorem foldE_flngFilter_frame {cfg : Cfg} {k : Nat} {f g : Flng} {xs ys : List F32}
    (h : foldE (fun k f x => flngFilter k cfg f x) 11 k f xs = .ok (g, ys)) :
    g = { f with buf := (f.buf ++ xs).drop xs.length, phase := g.phase } := by
  rw [← ringPush_foldl]
  induction xs generalizing k f ys with
  | nil => cases h; rfl
  | cons x xs ih =>
    obtain ⟨f₁, y, ys', hf, hrest, -⟩ := foldE_cons_eq_ok.1 h
    have hg := ih hrest
    rw [flngFilter_frame hf] at hg
    exact hg

/-- The samples of `FLNG` are `flngFilter` on its registers; the enable bit chooses between its outputs and the inputs. -/
theorem runSamples_flng {xs ys : List F32} {s : State} {f : Flng}
    (h : foldE (fun k f x => flngFilter k s.cfg f x) 11 s.draws s.flng xs = .ok (f, ys)) :
    runSamples .flng (xs.map fun x => (none, x)) s =
      .ok ({ s with flng := f, draws := s.draws + 11 * xs.length }, if s.flng.en then ys else xs) := by
  induction xs generalizing s ys with
  | nil => cases h; simp [runSamples]
  | cons x xs ih =>
    obtain ⟨g, y, ys', hg, hrest, rfl⟩ := foldE_cons_eq_ok.1 h
    have hen : g.en = s.flng.en := by rw [flngFilter_frame hg]
    have hdraws : s.draws + 11 * (x :: xs).length = s.draws + 11 + 11 * xs.length := by
      rw [List.length_cons]
      ring
    have hblock := ih (s := { s with flng := g, draws := s.draws + 11 }) hrest
    rw [hen] at hblock
    rw [hdraws, enabledOut_cons]
    exact runSamples_cons_eq_ok.2 ⟨_, _, _, flngSample_eq_ok.2 ⟨g, y, hg, rfl, rfl⟩, hblock, rfl⟩

/-- Settles O48: every sample has a meaning, and a block completes with the registers its samples leave. -/
theorem procFlngRunsTheDelayLine : Obligations.ProcFlngRunsTheDelayLine := by
  intro n s hnum hs hn hangle
  have hlen : (s.in0.take n).length = n := List.length_take_of_le hn
  obtain ⟨f, ys, hfold⟩ := exists_foldE_flngFilter (s.in0.take n) hnum hs.flng (capmax_of_cfgSizesOk hs.cfg)
    (hlen.symm ▸ hangle)
  have hframe := foldE_flngFilter_frame hfold
  have hrun := runSamples_flng hfold
  rw [hlen] at hframe hrun
  have hbuf : f.buf = (s.flng.buf ++ s.in0.take n).drop n := congrArg Flng.buf hframe
  refine ⟨f, ys, hfold, hbuf, ?_, ?_⟩
  · rw [hbuf]
    exact hframe
  · exact exec_procCommand_of_samples (u := .flng) (sc := false) nofun rfl hn hrun

/-! ## The Flanger at rest (R63, R165) -/

theorem roundI_of_isZero {a : F32} (h : isZero a = true) : roundI a = some 0 := by
  obtain rfl | rfl := isZero_cases (isZero_iff.1 h) <;> decide +kernel

/-- At rate `+0.0` an index that has a meaning is 0: the angle is a zero, and the LFO value with it (`COS_ZERO`). -/
theorem flngIndex_at_rest {k j cap i : Nat} {f : Flng} (hfreq : f.lfoFreq = posZero)
    (h : flngIndex binary32 j cap (flngLfoValue binary32 k f) = some (i : Int)) : i = 0 := by
  have hangle : isZero (lfoAngle binary32 k f.phase f.lfoFreq) = true := by
    have hnan : isNaN (fmul k f.phase f.lfoFreq) = false := by
      rw [← Bool.not_eq_true]
      intro hnan
      rw [flngIndex_of_nan_angle k j cap hnan] at h
      cases h
    rw [fmul_comm] at hnan
    rw [lfoAngle, binary32_mul, fmul_comm]
    exact isZero_fmul_left hnan (by rw [hfreq]; rfl)
  have hvalue : flngLfoValue binary32 k f = posZero := by
    simp only [flngLfoValue, binary32_sub, binary32_mul, binary32_cos, cos32_zero _ hangle]
    rw [fmul_one _ rfl]
    exact fsub_self _ rfl
  have hproduct : isZero (fmul j posZero (i2f (cap - 1))) = true := by
    rw [flngIndex, hvalue] at h
    exact isZero_fmul_left (isNaN_of_isFinite (isFinite_of_roundI_eq_some h)) rfl
  rw [flngIndex, hvalue, binary32_mul, roundI_of_isZero hproduct] at h
  exact Int.natCast_eq_zero.1 (Option.some.inj h).symm

/-- At rate `+0.0` a sample reads the entry at tap index 0. -/
theorem exists_ringAt_zero_of_flngFilter {k : Nat} {cfg : Cfg} {f g : Flng} {x y : F32} (hnum : cfg.num = .binary32)
    (hfreq : f.lfoFreq = posZero) (h : flngFilter k cfg f x = .ok (g, y)) :
    ∃ wet, ringAt cfg.tapOrigin f.buf 0 = some wet ∧ y = mix binary32 (k + 7) wet x f.wetGamma := by
  obtain ⟨i, wet, hi, hwet, hy⟩ := exists_ringAt_of_flngFilter h
  rw [numOf_binary32 hnum] at hi hy
  obtain rfl := flngIndex_at_rest hfreq hi
  exact ⟨wet, hwet, hy⟩

/-- So does sample `i` of a block, from the delay line that the samples before it have left. -/
theorem foldE_flngFilter_at_rest {cfg : Cfg} {k i : Nat} {f g : Flng} {xs ys : List F32} {x : F32}
    (hnum : cfg.num = .binary32) (hfreq : f.lfoFreq = posZero)
    (h : foldE (fun k f x => flngFilter k cfg f x) 11 k f xs = .ok (g, ys)) (hx : xs[i]? = some x) :
    ∃ wet, ringAt cfg.tapOrigin ((f.buf ++ xs.take i).drop i) 0 = some wet ∧
      ys[i]? = some (mix binary32 (k + 11 * i + 7) wet x f.wetGamma) := by
  have hi : i ≤ xs.length := (List.getElem?_eq_some_iff.1 hx).1.le
  obtain ⟨f₁, ys₁, g', y, hbefore, hsample, hy⟩ := foldE_getElem? h hx
  have hframe := foldE_flngFilter_frame hbefore
  rw [List.length_take_of_le hi] at hframe
  have hfreq₁ : f₁.lfoFreq = posZero := (congrArg Flng.lfoFreq hframe).trans hfreq
  have hbuf : f₁.buf = (f.buf ++ xs.take i).drop i := congrArg Flng.buf hframe
  have hgamma : f₁.wetGamma = f.wetGamma := by rw [hframe]
  obtain ⟨wet, hwet, rfl⟩ := exists_ringAt_zero_of_flngFilter hnum hfreq₁ hsample
  rw [hbuf] at hwet
  rw [hgamma] at hy
  exact ⟨wet, hwet, hy⟩

/-- In the delay line after `i` of the inputs, tap index 0 is a place in its old entries followed by all the inputs. -/
theorem ringAt_zero_window (o : TapOrigin) {b xs : List F32} {i : Nat} (hb : 1 ≤ b.length) (hi : i ≤ xs.length) :
    ringAt o ((b ++ xs.take i).drop i) 0 = (b ++ xs)[match o with | .oldest => i | .newest => i + b.length - 1]? := by
  have hlen : ((b ++ xs.take i).drop i).length = b.length := by
    rw [List.length_drop, List.length_append, List.length_take_of_le hi, Nat.add_sub_cancel]
  have hwindow : ∀ j < b.length, ((b ++ xs.take i).drop i)[j]? = (b ++ xs)[i + j]? := fun j hj => by
    rw [List.getElem?_drop, ← List.take_length_add_append, List.getElem?_take_of_lt (by omega)]
  rw [ringAt_eq_getElem? o (by omega), hlen]
  cases o with
  | oldest => exact hwindow 0 hb
  | newest =>
    have hplace : i + (b.length - 1 - 0) = i + b.length - 1 := by omega
    exact (hwindow (b.length - 1 - 0) (by omega)).trans (congrArg ((b ++ xs)[·]?) hplace)

/-- Settles O49: tap index 0 in every sample is the oldest entry or the newest, by the configured origin. -/
theorem flangerAtRestIsAFixedDelay : Obligations.FlangerAtRestIsAFixedDelay := by
  intro n s hnum hs hn hangle hfreq hen
  obtain ⟨f, ys, hfold, -, -, hexec⟩ := procFlngRunsTheDelayLine n s hnum hs hn hangle
  rw [hen] at hexec
  refine ⟨_, ys, hexec, rfl, (foldE_length hfold).trans (List.length_take_of_le hn), fun i wet x hi hwet hx => ?_⟩
  obtain ⟨wet', hread, hy⟩ := foldE_flngFilter_at_rest hnum hfreq hfold ((List.getElem?_take_of_lt hi).trans hx)
  rw [List.take_take, Nat.min_eq_left hi.le, ringAt_zero_window _ (hs.flng.buf ▸ hs.flng.pos) (hi.le.trans hn),
    hs.flng.buf] at hread
  obtain rfl : wet' = wet := Option.some.inj (hread.symm.trans hwet)
  exact hy

end Sys2Proof.Proofs
end

section
/-! PROOFS. The statements of spec/44_waveshaper_distortion.md: the curve codes (R187), the curves, the sign and the
saturation (R180 to R182), the bound on a shaped sample (R184), curve `L` (R185), and the `PROC` of `DIST` (R183,
R186). -/

namespace Sys2Proof.Proofs

open Sys2Proof Sys2Proof.Machine Sys2Proof.Claims

/-! ## The curve codes (R187) -/

theorem execSetDistFuncDist_of_some {code : Word32} {c : Curve} (s : State) (h : curveOf code = some c) :
    execSetDistFuncDist code s = .next { s with dist := { s.dist with func := c }, resp := s.resp ++ [0#64] } := by
  rw [execSetDistFuncDist, h]
  rfl

theorem execSetDistFuncDist_of_none {code : Word32} (s : State) (h : curveOf code = none) :
    execSetDistFuncDist code s = .next { s with resp := s.resp ++ [0x101#64] } := by
  rw [execSetDistFuncDist, h]
  rfl

theorem curveOf_eq_none {code : Word32} (h : code ∉ [0x4C#32, 0x51#32, 0x45#32, 0x49#32, 0x53#32]) :
    curveOf code = none := by
  simp only [List.mem_cons, List.not_mem_nil, or_false, not_or] at h
  obtain ⟨hl, hq, he, hi, hs⟩ := h
  rw [curveOf, if_neg hl, if_neg hq, if_neg he, if_neg hi, if_neg hs]

/-- Settles O31: each of the five codes names its curve, any other code none. -/
theorem setDistFuncTakesFiveCodes : Obligations.SetDistFuncTakesFiveCodes := by
  refine fun code s => ⟨?_, fun h => execSetDistFuncDist_of_none s (curveOf_eq_none h)⟩
  rintro ⟨letter, c⟩ hp rfl
  refine execSetDistFuncDist_of_some s ?_
  have hall : ∀ p ∈ [(0x4C#32, Curve.l), (0x51#32, Curve.q), (0x45#32, Curve.e), (0x49#32, Curve.i),
      (0x53#32, Curve.s)], curveOf p.1 = some p.2 := by decide
  exact hall _ hp

/-! ## Signs and magnitudes -/

theorem toNat_fabs (a : F32) : (fabs a).toNat = fmag a := by
  rw [fabs, BitVec.toNat_and]
  exact Nat.and_two_pow_sub_one_eq_mod a.toNat 31

theorem toNat_fabs_lt (a : F32) : (fabs a).toNat < 2 ^ 31 := (toNat_fabs a).trans_lt (fmag_lt a)

theorem fmag_fabs (a : F32) : fmag (fabs a) = fmag a := (fmag_of_nonneg (toNat_fabs_lt a)).trans (toNat_fabs a)

theorem fsign_fabs (a : F32) : fsign (fabs a) = false := fsign_of_nonneg (toNat_fabs_lt a)

theorem isNaN_fabs (a : F32) : isNaN (fabs a) = isNaN a := by rw [isNaN, fmag_fabs, isNaN]

/-- Without its sign bit a number is not negative, and a zero never is. -/
theorem posZero_fle_iff_fsign {a : F32} :
    fle posZero a = true ↔ isNaN a = false ∧ (fsign a = true → isZero a = true) := by
  rw [posZero_fle_iff, isZero_iff, ← scaledMag_eq_zero, fval]
  refine and_congr_right fun _ => ?_
  cases fsign a <;> simp

theorem posZero_fle_fabs {a : F32} (h : isNaN a = false) : fle posZero (fabs a) = true :=
  posZero_fle_iff_fsign.2 ⟨(isNaN_fabs a).trans h, fun hs => by simp [fsign_fabs] at hs⟩

theorem flt_posZero_iff_fsign {a : F32} :
    flt a posZero = true ↔ isNaN a = false ∧ fsign a = true ∧ isZero a = false := by
  rw [flt_posZero_iff, ← Bool.not_eq_true (isZero a), isZero_iff, ← scaledMag_eq_zero, fval]
  refine and_congr_right fun _ => ?_
  cases fsign a <;> simp [Nat.pos_iff_ne_zero]

theorem isNaN_of_fmag_le_one {a : F32} (h : fmag a ≤ fmag one) : isNaN a = false :=
  decide_eq_false (h.trans (by decide)).not_gt

theorem isFinite_of_fmag_le_one {a : F32} (h : fmag a ≤ fmag one) : isFinite a = true :=
  isFinite_iff.2 (h.trans_lt (by decide))

theorem isNaN_one : isNaN one = false := rfl

theorem fval_one : fval one = 2 ^ 149 := by decide +kernel

/-- Numbers of magnitude at most `1.0` lie in `[-1, 1]`; the converse is `fmag_le_one_of_within`. -/
theorem within_of_fmag_le_one {a : F32} (h : fmag a ≤ fmag one) : within minusOne one a = true := by
  have hle : scaledMag (fmag a) ≤ 2 ^ 149 := scaledMag_one ▸ scaledMag_mono h
  have hlo : fval minusOne = -2 ^ 149 := by decide +kernel
  have hn := isNaN_of_fmag_le_one h
  rw [within, Bool.and_eq_true, fle_iff, fle_iff, hlo, fval_one, fval]
  refine ⟨⟨rfl, hn, ?_⟩, hn, rfl, ?_⟩ <;> split <;> omega

/-- Between numbers `a < b` is the opposite of `b <= a`. -/
theorem flt_eq_not_fle {a b : F32} (ha : isNaN a = false) (hb : isNaN b = false) : flt a b = !fle b a := by
  simp [flt, fle, ordered, ha, hb, ← decide_not]

theorem fle_of_flt {a b : F32} (h : flt a b = true) : fle a b = true := by
  obtain ⟨ha, hb, hlt⟩ := flt_iff.1 h
  exact fle_iff.2 ⟨ha, hb, hlt.le⟩

/-- The numbers in `[0, 1]` are those of magnitude at most `1.0` that are not negative. -/
theorem within_posZero_one_iff {a : F32} :
    within posZero one a = true ↔ fle posZero a = true ∧ fmag a ≤ fmag one := by
  rw [within, Bool.and_eq_true]
  refine and_congr_right fun h0 => ⟨fun h1 => ?_, fun h => (Bool.and_eq_true_iff.1 (within_of_fmag_le_one h)).2⟩
  have h01 : within posZero one a = true := Bool.and_eq_true_iff.2 ⟨h0, h1⟩
  exact fmag_le_one_of_within (within_mono (by decide) (by decide) h01)

theorem fval_of_within {a : F32} (h : within posZero one a = true) : 0 ≤ fval a ∧ fval a ≤ 2 ^ 149 := by
  obtain ⟨hlo, hhi⟩ := Bool.and_eq_true_iff.1 h
  obtain ⟨-, h0⟩ := posZero_fle_iff.1 hlo
  obtain ⟨-, -, h1⟩ := fle_iff.1 hhi
  exact ⟨h0, fval_one ▸ h1⟩

/-! ## Operations on `[0, 1]` -/

/-- A product that is a number is the same whatever the index of the free value. -/
theorem fmul_of_not_isNaN {j : Nat} {a b : F32} (k : Nat) (h : isNaN (fmul j a b) = false) :
    fmul k a b = fmul j a b := by
  obtain heq | ⟨-, hNaN⟩ := fmul_index k j a b
  · exact heq
  · rw [hNaN, isNaN_quietNaN] at h
    cases h

theorem fsign_fmul {k : Nat} {a b : F32} (h : isNaN (fmul k a b) = false) :
    fsign (fmul k a b) = (fsign a != fsign b) := by
  revert h
  unfold fmul
  split
  · simp [isNaN_quietNaN]
  · split
    · split
      · simp [isNaN_quietNaN]
      · exact fun _ => fsign_packF _ (show infMag < 2 ^ 31 by decide)
    · exact fun _ => fsign_packF _ (roundMag_lt _ _)

/-- A product of numbers that are not negative is not negative, if it is a number. -/
theorem posZero_fle_fmul {k : Nat} {a b : F32} (ha : fle posZero a = true) (hb : fle posZero b = true)
    (hn : isNaN (fmul k a b) = false) : fle posZero (fmul k a b) = true := by
  obtain ⟨-, ha⟩ := posZero_fle_iff_fsign.1 ha
  obtain ⟨-, hb⟩ := posZero_fle_iff_fsign.1 hb
  refine posZero_fle_iff_fsign.2 ⟨hn, fun hs => ?_⟩
  rw [fsign_fmul hn] at hs
  cases hsa : fsign a with
  | true => exact isZero_fmul_left hn (ha hsa)
  | false =>
    rw [hsa, Bool.false_bne] at hs
    rw [fmul_comm] at hn ⊢
    exact isZero_fmul_left hn (hb hs)

theorem roundMag_zero {d : Nat} (hd : 0 < d) : roundMag 0 d = 0 := by
  simpa [scaledMag_eq_zero.2 rfl] using roundMag_scaledMag (m := 0) (Nat.zero_le _) hd

theorem fmul_posZero (k : Nat) {a : F32} (ha : isFinite a = true) (hs : fsign a = false) :
    fmul k a posZero = posZero := by
  have hzero : scaledMag (fmag posZero) = 0 := rfl
  rw [fmul_finite k ha rfl, hs, hzero, Nat.mul_zero, roundMag_zero (by positivity)]
  rfl

/-- A finite number that is not negative over a positive one is not negative. -/
theorem posZero_fle_fdiv (k : Nat) {a b : F32} (ha : isFinite a = true) (hb : isFinite b = true)
    (ha0 : fle posZero a = true) (hb0 : flt posZero b = true) : fle posZero (fdiv k a b) = true := by
  obtain ⟨-, hsa⟩ := posZero_fle_iff_fsign.1 ha0
  obtain ⟨-, -, hpos⟩ := flt_iff.1 hb0
  have hmag : fmag b ≠ 0 := mt fval_eq_zero.2 hpos.ne'
  have hsb : fsign b = false := (fsign_eq_decide hpos.ne').trans (decide_eq_false hpos.not_gt)
  rw [fdiv_finite k ha hb (beq_false_of_ne hmag), hsb, Bool.bne_false]
  cases hs : fsign a with
  | false => exact posZero_fle_packF (roundMag_le_infMag _ _)
  | true =>
    rw [isZero_iff.1 (hsa hs), scaledMag_eq_zero.2 rfl, Nat.zero_mul,
      roundMag_zero (Nat.pos_of_ne_zero (mt scaledMag_eq_zero.1 hmag))]
    decide

/-- Rounding keeps a bound that is a magnitude. -/
theorem roundMag_le_of_le {n m : Nat} (hm : m ≤ infMag) (h : n ≤ scaledMag m) : roundMag n 1 ≤ m := by
  calc roundMag n 1 ≤ roundMag (scaledMag m * 1) 1 := roundMag_mono 1 (by omega)
    _ = m := roundMag_scaledMag hm Nat.one_pos

/-- `1.0` less a number in `[0, 1]` lies in `[0, 1]`. -/
theorem within_one_fsub (k : Nat) {a : F32} (h : within posZero one a = true) :
    within posZero one (fsub k one a) = true := by
  obtain ⟨-, hmag⟩ := within_posZero_one_iff.1 h
  obtain ⟨h0, h1⟩ := fval_of_within h
  rw [fsub, fadd_finite k rfl ((isFinite_fneg a).trans (isFinite_of_fmag_le_one hmag)), fval_fneg, fval_one]
  split
  next =>
    rw [show fsign one = false from rfl, Bool.false_and]
    decide
  next =>
    have hle : roundMag ((2 : Int) ^ 149 + -fval a).natAbs 1 ≤ fmag one :=
      roundMag_le_of_le (by decide) (by rw [scaledMag_one]; omega)
    rw [decide_eq_false (by omega)]
    refine within_posZero_one_iff.2 ⟨posZero_fle_packF (roundMag_le_infMag _ _), ?_⟩
    rwa [fmag_packF _ (roundMag_lt _ _)]

/-- A finite number times one of magnitude at most `1.0` does not grow. -/
theorem fmag_fmul_le (k : Nat) {a c : F32} (ha : isFinite a = true) (hc : fmag c ≤ fmag one) :
    fmag (fmul k a c) ≤ fmag a := by
  obtain ⟨m, hm, heq⟩ := exists_fmul_of_le_one k ha hc
  rwa [heq, fmag_packF _ (hm.trans_lt (fmag_lt a))]

/-- The product of two numbers in `[0, 1]` lies in `[0, 1]`. -/
theorem within_fmul (k : Nat) {a b : F32} (ha : within posZero one a = true) (hb : within posZero one b = true) :
    within posZero one (fmul k a b) = true := by
  obtain ⟨ha0, ha1⟩ := within_posZero_one_iff.1 ha
  obtain ⟨hb0, hb1⟩ := within_posZero_one_iff.1 hb
  have hle := (fmag_fmul_le k (isFinite_of_fmag_le_one ha1) hb1).trans ha1
  exact within_posZero_one_iff.2 ⟨posZero_fle_fmul ha0 hb0 (isNaN_of_fmag_le_one hle), hle⟩

/-- `1.0` plus a number in `[0, 1]` is finite and positive. -/
theorem one_fadd_pos (k : Nat) {a : F32} (h : within posZero one a = true) :
    isFinite (fadd k one a) = true ∧ flt posZero (fadd k one a) = true := by
  obtain ⟨-, hmag⟩ := within_posZero_one_iff.1 h
  obtain ⟨h0, h1⟩ := fval_of_within h
  have htwo : scaledMag (fmag two) = 2 ^ 150 := by decide +kernel
  have hpos : 0 < roundMag ((2 : Int) ^ 149 + fval a).natAbs 1 := roundMag_pos Nat.one_pos (by omega)
  have hle : roundMag ((2 : Int) ^ 149 + fval a).natAbs 1 ≤ fmag two :=
    roundMag_le_of_le (by decide) (by rw [htwo]; omega)
  have hinf := roundMag_le_infMag ((2 : Int) ^ 149 + fval a).natAbs 1
  rw [fadd_finite k rfl (isFinite_of_fmag_le_one hmag), fval_one, if_neg (by omega), decide_eq_false (by omega)]
  constructor
  · rw [isFinite_iff, fmag_packF _ (roundMag_lt _ _)]
    exact hle.trans_lt (by decide)
  · refine flt_iff.2 ⟨rfl, isNaN_packF false hinf, ?_⟩
    rw [fval_packF hinf]
    exact Int.natCast_pos.2 (Nat.pos_of_ne_zero (mt scaledMag_eq_zero.1 hpos.ne'))

/-! ## The curves (R180, R184) -/

/-- Negation takes a number that is not negative to one that is not positive. -/
theorem fneg_fle_posZero {a : F32} (h : fle posZero a = true) : fle (fneg a) posZero = true := by
  obtain ⟨hn, h0⟩ := posZero_fle_iff.1 h
  refine fle_iff.2 ⟨(isNaN_fneg a).trans hn, rfl, ?_⟩
  rw [fval_fneg]
  exact neg_nonpos.2 h0

theorem within_sin32 (n : NumId) {a : F32} (h : isFinite a = true) :
    within minusOne one (sin32 n a) = true := by
  obtain hz | hr := sin32_range n h
  · rw [sin32_zero n hz]
    exact within_of_fmag_le_one (by rw [isZero_iff.1 hz]; exact Nat.zero_le _)
  · exact hr

/-- On `[0, 1]` no curve is a NaN or goes below `-1.0`: `S` by `SIN_RANGE`, the others are not negative. -/
theorem minusOne_fle_curve (k : Nat) (c : Curve) {m : F32} (h : within posZero one m = true) :
    fle minusOne (curve binary32 k c m) = true := by
  obtain ⟨h0, h1⟩ := within_posZero_one_iff.1 h
  have hfin := isFinite_of_fmag_le_one h1
  have nonneg : ∀ {v : F32}, fle posZero v = true → fle minusOne v = true := fle_trans (by decide)
  cases c with
  | l => exact nonneg h0
  | q =>
    have hsq := within_fmul (k + 2) (within_one_fsub k h) (within_one_fsub (k + 1) h)
    exact nonneg (within_posZero_one_iff.1 (within_one_fsub (k + 3) hsq)).1
  | e =>
    have hexp := exp32_range .binary32 ((isFinite_fneg m).trans hfin) (fneg_fle_posZero h0)
    obtain ⟨hd0, hd1⟩ := within_posZero_one_iff.1 (within_one_fsub k hexp)
    exact nonneg (posZero_fle_fdiv (k + 1) (isFinite_of_fmag_le_one hd1) rfl hd0 (by decide))
  | i =>
    obtain ⟨hdfin, hdpos⟩ := one_fadd_pos (k + 1) h
    have htwo : isFinite (fmul k two m) = true :=
      isFinite_iff.2 ((fmag_fmul_le k rfl h1).trans_lt (by decide))
    have hn0 := posZero_fle_fmul (show fle posZero two = true by decide) h0 (isNaN_of_isFinite htwo)
    exact nonneg (posZero_fle_fdiv (k + 2) htwo hdfin hn0 hdpos)
  | s =>
    have hangle : isFinite (fmul k halfPi32 m) = true :=
      isFinite_iff.2 ((fmag_fmul_le k rfl h1).trans_lt (by decide))
    exact (Bool.and_eq_true_iff.1 (within_sin32 .binary32 hangle)).1

/-- At `+0.0` every curve is `+0.0`. -/
theorem curve_posZero (k : Nat) (c : Curve) : curve binary32 k c posZero = posZero := by
  have hsub : ∀ j, fsub j one posZero = one := fun j => fadd_isZero j rfl (by decide) rfl
  have hadd : ∀ j, fadd j one posZero = one := fun j => fadd_isZero j rfl (by decide) rfl
  cases c with
  | l => rfl
  | q =>
    simp only [curve, binary32_sub, binary32_mul, hsub]
    rw [fmul_one _ rfl]
    exact fsub_self _ rfl
  | e =>
    simp only [curve, binary32_sub, binary32_div, binary32_exp]
    rw [exp32_zero _ rfl, fsub_self _ rfl]
    rfl
  | i =>
    simp only [curve, binary32_add, binary32_mul, binary32_div, hadd]
    rw [fmul_posZero k rfl rfl]
    rfl
  | s =>
    simp only [curve, binary32_mul, binary32_sin]
    rw [fmul_posZero k rfl rfl, sin32_zero _ rfl]

/-! ## Sign, saturation and shape (R181, R182, R184) -/

section saturation
variable {N : Numerics} {k : Nat} {f : Curve} {m : F32}

theorem saturate_of_le (h : N.le one m = true) : saturate N k f m = one := if_pos h

theorem saturate_of_not_le (h : N.le one m = false) :
    saturate N k f m = if N.lt one (curve N k f m) then one else curve N k f m :=
  if_neg (Bool.eq_false_iff.1 h)

end saturation

/-- In every numerics no zero is below another. -/
theorem num_lt_zero (n : NumId) {a b : F32} (ha : isZero a = true) (hb : isZero b = true) :
    (numericsOf n).lt a b = false := by
  cases n with
  | binary32 =>
    refine Bool.eq_false_iff.2 fun h => ?_
    obtain ⟨-, -, hlt⟩ := flt_iff.1 h
    rw [fval_eq_zero.2 (isZero_iff.1 ha), fval_eq_zero.2 (isZero_iff.1 hb)] at hlt
    exact lt_irrefl 0 hlt
  | other id => exact compared_zero false _ ha hb

theorem signOf_of_zero_or_nan (n : NumId) {x : F32} (h : isZero x = true ∨ isNaN x = true) :
    signOf (numericsOf n) x = one := by
  have hlt : (numericsOf n).lt x posZero = false := by
    obtain hz | hn := h
    · exact num_lt_zero n hz rfl
    · exact num_lt_nan n (.inl hn)
  exact if_neg (Bool.eq_false_iff.1 hlt)

theorem fmag_signOf (N : Numerics) (x : F32) : fmag (signOf N x) = fmag one := by
  unfold signOf
  split <;> rfl

theorem isNaN_signOf (N : Numerics) (x : F32) : isNaN (signOf N x) = false :=
  isNaN_of_fmag_le_one (fmag_signOf N x).le

/-- Settles O52: the formulas; at `+0.0`; the sign; and `1.0` times the sign is the sign. -/
theorem waveshaperAppliesClipsAndSaturates : Obligations.WaveshaperAppliesClipsAndSaturates := by
  refine ⟨⟨rfl, rfl, rfl, rfl, rfl⟩, fun N k d m x => ⟨⟨rfl, rfl, rfl, rfl, rfl⟩, rfl, fun h => ?_, fun h => ?_⟩,
    curve_posZero, fun n x => signOf_of_zero_or_nan n, fun k d x h => ?_⟩
  · rw [shape, saturate_of_le h]
  · rw [shape, saturate_of_not_le h]
  · obtain ⟨-, hn, -⟩ := fle_iff.1 h
    rw [← fmul_of_not_isNaN k hn] at h
    rw [shape, saturate_of_le h, binary32_mul, fmul_one _ (isNaN_signOf _ _)]
    rfl

/-- Re-clipped at `1.0`, a number that is at least `-1.0` has a magnitude of at most `1.0`. -/
theorem fmag_clip_le_one {c : F32} (h : fle minusOne c = true) : fmag (if flt one c then one else c) ≤ fmag one := by
  split
  next => exact le_rfl
  next hlt =>
    obtain ⟨-, hn, -⟩ := fle_iff.1 h
    have hle : fle c one = true := by simpa [flt_eq_not_fle isNaN_one hn] using hlt
    exact fmag_le_one_of_within (Bool.and_eq_true_iff.2 ⟨h, hle⟩)

theorem fmag_saturate_le_one (k : Nat) (f : Curve) {m : F32} (h : fle posZero m = true) :
    fmag (saturate binary32 k f m) ≤ fmag one := by
  cases hle : binary32.le one m with
  | true => rw [saturate_of_le hle]
  | false =>
    obtain ⟨-, hn, -⟩ := fle_iff.1 h
    have hm : flt m one = true := by rw [flt_eq_not_fle hn isNaN_one]; exact congrArg (!·) hle
    rw [saturate_of_not_le hle]
    exact fmag_clip_le_one (minusOne_fle_curve k f (Bool.and_eq_true_iff.2 ⟨h, fle_of_flt hm⟩))

/-- Settles O53: the boosted magnitude is not negative, so the saturated one is at most `1.0`; the sign keeps that. -/
theorem shapedSampleIsBoundedByOne : Obligations.ShapedSampleIsBoundedByOne := by
  intro k d x hn hboost
  rw [← fmul_of_not_isNaN k hn] at hn
  have hx : isNaN x = false := by
    rw [← Bool.not_eq_true]
    intro hx
    rw [fmul_nan k (.inl ((isNaN_fabs x).trans hx)), isNaN_quietNaN] at hn
    cases hn
  have hsat := fmag_saturate_le_one (k + 1) d.func (posZero_fle_fmul (posZero_fle_fabs hx) hboost hn)
  have hsign := fmag_signOf binary32 x
  have hshape := (fmag_fmul_le (k + 5) (isFinite_of_fmag_le_one hsign.le) hsat).trans hsign.le
  exact Bool.and_eq_true_iff.1 (within_of_fmag_le_one hshape)

/-! ## Curve `L` (R185) -/

/-- A number of magnitude `1.0` times a finite one gives it the product of the signs. -/
theorem fmul_of_fmag_one (k : Nat) {u a : F32} (hu : fmag u = fmag one) (ha : isFinite a = true) :
    fmul k u a = packF (fsign u != fsign a) (fmag a) := by
  rw [fmul_finite k (isFinite_of_fmag_le_one hu.le) ha, hu, scaledMag_one, Nat.mul_comm,
    roundMag_scaledMag (isFinite_iff.1 ha).le (by positivity)]

theorem fsign_signOf (N : Numerics) (x : F32) : fsign (signOf N x) = N.lt x posZero := by
  unfold signOf
  cases N.lt x posZero <;> rfl

/-- The sign of a finite number times its magnitude is the number, but for the sign of `-0.0`. -/
theorem fmul_signOf_fabs (k : Nat) {x : F32} (hx : isFinite x = true) :
    fmul k (signOf binary32 x) (fabs x) = if x = negZero then posZero else x := by
  have hfin : isFinite (fabs x) = true := by rwa [isFinite_iff, fmag_fabs, ← isFinite_iff]
  rw [fmul_of_fmag_one k (fmag_signOf _ _) hfin, fsign_signOf, fsign_fabs, fmag_fabs, Bool.bne_false, binary32_lt]
  cases hz : isZero x with
  | true => obtain rfl | rfl := isZero_cases (isZero_iff.1 hz) <;> decide
  | false =>
    have hsign : flt x posZero = fsign x :=
      Bool.eq_iff_iff.2 (by simp [flt_posZero_iff_fsign, isNaN_of_isFinite hx, hz])
    have hne : x ≠ negZero := by
      rintro rfl
      cases hz
    rw [if_neg hne, hsign, packF_fsign_fmag]

/-- Settles O54: neither the saturation nor the clip applies, and the sign gives back the input. -/
theorem lCurveIsTheIdentityBelowOne : Obligations.LCurveIsTheIdentityBelowOne := by
  intro k d x hfunc hboost hlt
  obtain ⟨hn, -, -⟩ := flt_iff.1 hlt
  have hshape : shape binary32 k d x = fmul (k + 5) (signOf binary32 x) (fabs x) := by
    have hm : ∀ j, fmul j (fabs x) one = fabs x := fun j => fmul_one j hn
    have hle : binary32.le one (fabs x) = false := by simpa [flt_eq_not_fle hn isNaN_one] using hlt
    have hclip : binary32.lt one (fabs x) = false := by simp [flt_eq_not_fle isNaN_one hn, fle_of_flt hlt]
    rw [shape, hboost, hfunc, binary32_mul, hm, saturate_of_not_le hle, curve, hclip, if_neg Bool.false_ne_true]
  have hfin : isFinite x = true := by
    have h1 : within posZero one (fabs x) = true :=
      Bool.and_eq_true_iff.2 ⟨posZero_fle_fabs ((isNaN_fabs x).symm.trans hn), fle_of_flt hlt⟩
    exact isFinite_of_fmag_le_one ((fmag_fabs x).symm.trans_le (within_posZero_one_iff.1 h1).2)
  rw [hshape, fmul_signOf_fabs _ hfin]
  exact ⟨fun h => if_neg h, fun h => if_pos h⟩

/-! ## `PROC.DIST` (R183, R186) -/

/-- One sample of the enabled unit: the mix of the shaped sample and the input. There is no state to advance. -/
def distOne (N : Numerics) (d : Dist) (k : Nat) (_ : Unit) (x : F32) : Unit × F32 :=
  ((), mix N (k + 6) (shape N k d x) x d.wetGamma)

theorem distSample_of_enabled (x : F32) {s : State} (hen : s.dist.en = true) :
    distSample x s = ({ s with draws := s.draws + 10 }, (distOne (numOf s.cfg) s.dist s.draws () x).2) :=
  if_pos hen

theorem distSample_of_disabled (x : F32) {s : State} (hen : s.dist.en = false) : distSample x s = (s, x) :=
  if_neg (Bool.eq_false_iff.1 hen)

/-- The samples of the enabled unit use free values and change no register. -/
theorem runSamples_dist_of_enabled (xs : List F32) {s : State} (hen : s.dist.en = true) :
    runSamples .dist (xs.map fun x => (none, x)) s =
      .ok ({ s with draws := s.draws + 10 * xs.length },
        (fold (distOne (numOf s.cfg) s.dist) 10 s.draws () xs).2) := by
  induction xs generalizing s with
  | nil => rfl
  | cons x xs ih =>
    have hdraws : s.draws + 10 * (x :: xs).length = s.draws + 10 + 10 * xs.length := by
      rw [List.length_cons]
      ring
    rw [hdraws]
    exact runSamples_cons_eq_ok.2 ⟨_, _, _, congrArg Except.ok (distSample_of_enabled x hen),
      ih (s := { s with draws := s.draws + 10 }) hen, rfl⟩

theorem runSamples_dist_of_disabled (xs : List F32) {s : State} (hen : s.dist.en = false) :
    runSamples .dist (xs.map fun x => (none, x)) s = .ok (s, xs) := by
  induction xs with
  | nil => rfl
  | cons x xs ih =>
    exact runSamples_cons_eq_ok.2 ⟨_, _, _, congrArg Except.ok (distSample_of_disabled x hen), ih, rfl⟩

/-- Settles O55: a block of `DIST` completes, enabled or disabled. -/
theorem procDistShapesEachSample : Obligations.ProcDistShapesEachSample := by
  rintro n s N rfl hn
  cases hen : s.dist.en with
  | true =>
    have hrun := runSamples_dist_of_enabled (s.in0.take n) hen
    rw [List.length_take_of_le hn] at hrun
    exact exec_procCommand_of_samples (u := .dist) (sc := false) nofun rfl hn hrun
  | false =>
    exact exec_procCommand_of_samples (u := .dist) (sc := false) nofun rfl hn
      (runSamples_dist_of_disabled (s.in0.take n) hen)

end Sys2Proof.Proofs
end

section
/-! PROOFS. The statements of spec/45_reverb.md: the rebuild (R204 to R206), the filter bank (R200, R212), `PROC.RVRB`
(R207), the silence after a rebuild (R214), and that with both modes preset the block is deterministic up to the
payloads of NaNs (R213, with R109 and R14). -/

namespace Sys2Proof.Proofs

open Sys2Proof Sys2Proof.Machine Sys2Proof.Claims

/-! ## The filter bank (R200, R212) -/

/-- The sum of the four combs, from `+0.0` in index order: what the allpasses are fed. -/
def combSum (N : Numerics) (k : Nat) (b : Bank) (x : F32) : F32 :=
  N.add (k + 23) (N.add (k + 17) (N.add (k + 11) (N.add (k + 5) posZero (secFilter N k b.comb0 x).2)
    (secFilter N (k + 6) b.comb1 x).2) (secFilter N (k + 12) b.comb2 x).2) (secFilter N (k + 18) b.comb3 x).2

/-- Settles O58: the sum is passed on from allpass to allpass. -/
theorem bankSumsCombsThenChainsAllpasses : Obligations.BankSumsCombsThenChainsAllpasses := by
  rintro N k b x v rfl
  rfl

/-! ## The rebuild (R201, R204 to R206) -/

/-- A comb's pair is the preset, or drawn in the closed intervals. -/
theorem combPair_cases (k : Nat) (m : Mode) (preset : GainDelay) :
    (m = .preset → combPair k m preset = preset) ∧
    (m = .random → within c0_6 c0_9 (combPair k m preset).gain = true ∧
      within c0_015 c0_030 (combPair k m preset).delay = true) := by
  cases m with
  | preset => exact ⟨fun _ => rfl, nofun⟩
  | random => exact ⟨nofun, fun _ => ⟨draw_within _ (by decide), draw_within _ (by decide)⟩⟩

/-- An allpass's pair is the preset, or the fixed gain and a drawn delay. -/
theorem apPair_cases (k : Nat) (m : Mode) (preset : GainDelay) :
    (m = .preset → apPair k m preset = preset) ∧
    (m = .random → (apPair k m preset).gain = c0_7 ∧ within c0_0001 c0_0101 (apPair k m preset).delay = true) := by
  cases m with
  | preset => exact ⟨fun _ => rfl, nofun⟩
  | random => exact ⟨nofun, fun _ => ⟨rfl, draw_within _ (by decide)⟩⟩

/-- A section made from a delay is a fresh one of its tap spacing. -/
theorem exists_secNew_of_secOfDelay {cfg : Cfg} {delay a b c : F32} {S : Section}
    (h : secOfDelay cfg delay a b c = .ok S) :
    ∃ d : Nat, delayTaps cfg delay = some (d : Int) ∧ 1 ≤ d ∧ d ≤ cfg.dmax ∧ S = secNew d a b c := by
  obtain ⟨d, hd, h1, h2, rfl⟩ := secOfDelay_eq_ok.1 h
  lift d to Nat using by omega
  exact ⟨d, hd, by omega, by omega, rfl⟩

/-- Settles O56: each section is the fresh one of its own pair. -/
theorem rebuildMakesSevenFreshSections : Obligations.RebuildMakesSevenFreshSections := by
  intro s t h
  obtain ⟨bank, hbank, rfl⟩ := rvrbRebuild_eq_ok.1 h
  have comb {k : Nat} {S : Section} {preset : GainDelay}
      (hS : combSection s.cfg (combPair k s.rvrb.combMode preset) = .ok S) :
      ∃ (p : GainDelay) (d : Nat), (s.rvrb.combMode = .preset → p = preset) ∧
        (s.rvrb.combMode = .random → within c0_6 c0_9 p.gain = true ∧ within c0_015 c0_030 p.delay = true) ∧
        delayTaps s.cfg p.delay = some (d : Int) ∧ 1 ≤ d ∧ d ≤ s.cfg.dmax ∧ S = secNew d posZero one (fneg p.gain) := by
    obtain ⟨d, hd⟩ := exists_secNew_of_secOfDelay hS
    obtain ⟨hpreset, hrandom⟩ := combPair_cases k s.rvrb.combMode preset
    exact ⟨_, d, hpreset, hrandom, hd⟩
  have ap {k : Nat} {S : Section} {preset : GainDelay}
      (hS : apSection s.cfg (apPair k s.rvrb.apMode preset) = .ok S) :
      ∃ (p : GainDelay) (d : Nat), (s.rvrb.apMode = .preset → p = preset) ∧
        (s.rvrb.apMode = .random → p.gain = c0_7 ∧ within c0_0001 c0_0101 p.delay = true) ∧
        delayTaps s.cfg p.delay = some (d : Int) ∧ 1 ≤ d ∧ d ≤ s.cfg.dmax ∧ S = secNew d p.gain one p.gain := by
    obtain ⟨d, hd⟩ := exists_secNew_of_secOfDelay hS
    obtain ⟨hpreset, hrandom⟩ := apPair_cases k s.rvrb.apMode preset
    exact ⟨_, d, hpreset, hrandom, hd⟩
  obtain ⟨h0, h1, h2, h3, h4, h5, h6⟩ := buildBank_eq_ok hbank
  simp only [List.forall_mem_cons, List.not_mem_nil, false_imp_iff, implies_true, and_true]
  exact ⟨trivial, ⟨comb h0, comb h1, comb h2, comb h3⟩, ap h4, ap h5, ap h6⟩

/-- Settles O57: a bank is built whatever is drawn. -/
theorem rebuildSucceedsWhateverIsDrawn : Obligations.RebuildSucceedsWhateverIsDrawn := by
  intro s hs hsafe
  obtain ⟨bank, hbank⟩ := exists_buildBank_of_cfg s.draws hs hsafe
  exact ⟨_, rvrbRebuild_eq_ok.2 ⟨bank, hbank, rfl⟩⟩

/-! ## `PROC.RVRB` (R87, R207, R212) -/

/-- One sample of the enabled unit: the bank, and the mix of its wet value and the input. -/
def rvrbOne (N : Numerics) (g : F32) (k : Nat) (b : Bank) (x : F32) : Bank × F32 :=
  ((bankStep N k b x).1, mix N (k + 39) (bankStep N k b x).2 x g)

/-- The samples of `RVRB` run the bank; the enable bit chooses between the mixes and the inputs. -/
theorem runSamples_rvrb (xs : List F32) (s : State) :
    runSamples .rvrb (xs.map fun x => (none, x)) s =
      .ok ({ s with
          rvrb := { s.rvrb with bank := (fold (rvrbOne (numOf s.cfg) s.rvrb.wetGamma) 43 s.draws s.rvrb.bank xs).1 }
          draws := s.draws + 43 * xs.length },
        if s.rvrb.en then (fold (rvrbOne (numOf s.cfg) s.rvrb.wetGamma) 43 s.draws s.rvrb.bank xs).2 else xs) := by
  induction xs generalizing s with
  | nil => simp [runSamples, fold]
  | cons x xs ih =>
    have hdraws : s.draws + 43 * (x :: xs).length = s.draws + 43 + 43 * xs.length := by
      rw [List.length_cons]
      ring
    rw [hdraws]
    exact runSamples_cons_eq_ok.2 ⟨_, _, _, rfl, ih (rvrbSample x s).1, enabledOut_cons _ _ _ _ _⟩

/-- A block with its samples supplied, from the state `a` after a pending rebuild. -/
theorem exec_procRvrb_of_started {n : Nat} {s a : State} (hn : n ≤ s.in0.length) (ha : started .rvrb s = .ok a) :
    exec (.procRvrb n) s = .next (blockDone n false s
      { a with
        rvrb := { a.rvrb with
          bank := (fold (rvrbOne (numOf s.cfg) a.rvrb.wetGamma) 43 a.draws a.rvrb.bank (s.in0.take n)).1 }
        draws := a.draws + 43 * n }
      (if a.rvrb.en then (fold (rvrbOne (numOf s.cfg) a.rvrb.wetGamma) 43 a.draws a.rvrb.bank (s.in0.take n)).2
       else s.in0.take n)) := by
  have hN : numOf a.cfg = numOf s.cfg := congrArg numOf (started_reachesOnly ha).cfg
  have hrun := runSamples_rvrb (s.in0.take n) a
  rw [List.length_take_of_le hn, hN] at hrun
  exact exec_procCommand_of_samples (u := .rvrb) (sc := false) nofun ha hn hrun

/-- What a block starts from is the rebuilt state if a rebuild is pending, else the state itself; never a dirty one. -/
theorem started_rvrb {s a : State} :
    started .rvrb s = .ok a ↔ (s.rvrb.dirty = true ∧ rvrbRebuild s = .ok a) ∨ (s.rvrb.dirty = false ∧ a = s) := by
  cases hd : s.rvrb.dirty <;> simp [started, rvrbRefresh, hd, eq_comm]

/-- Settles O59: the samples run from the state after a pending rebuild, which a safe one has. -/
theorem procRvrbRebuildsThenRunsTheBank : Obligations.ProcRvrbRebuildsThenRunsTheBank := by
  refine ⟨?_, fun n s hs hsafe hn => ?_⟩
  · rintro n s a N rfl hn ha
    exact exec_procRvrb_of_started hn (started_rvrb.2 ha)
  · obtain ⟨a, ha, hclean⟩ : ∃ a, started .rvrb s = .ok a ∧ a.rvrb.dirty = false := by
      cases hd : s.rvrb.dirty with
      | true =>
        obtain ⟨a, ha⟩ := rebuildSucceedsWhateverIsDrawn s hs.cfg (hsafe hd)
        obtain ⟨bank, -, rfl⟩ := rvrbRebuild_eq_ok.1 ha
        exact ⟨_, started_rvrb.2 (.inl ⟨hd, ha⟩), rfl⟩
      | false => exact ⟨s, started_rvrb.2 (.inr ⟨hd, rfl⟩), hd⟩
    exact ⟨_, exec_procRvrb_of_started hn ha, rfl, hclean, rfl⟩

/-! ## The silence after a rebuild (R214) -/

/-- A section whose histories are zeros for `m` samples to come: all of the outputs, and the next `m` of the inputs. -/
structure Silent (m : Nat) (S : Section) : Prop where
  ffFirst : isFinite S.ffFirst = true
  ffLast : isFinite S.ffLast = true
  fbLast : isFinite S.fbLast = true
  xh : ∀ v ∈ S.xh.take m, isZero v = true
  yh : ∀ v ∈ S.yh, isZero v = true

/-- The oldest entry of a ring whose first entries are zeros. -/
theorem isZero_ringOldest {m : Nat} {b : List F32} (h : ∀ v ∈ b.take (m + 1), isZero v = true) :
    isZero (ringOldest b) = true := by
  cases b with
  | nil => rfl
  | cons v b => exact h v (by simp)

/-- A push keeps the first entries zeros but for the oldest, if what is pushed is a zero or arrives behind them. -/
theorem isZero_of_mem_take_ringPush {m : Nat} {b : List F32} {x : F32} (h : ∀ v ∈ b.take (m + 1), isZero v = true)
    (hx : isZero x = true ∨ m < b.length) : ∀ v ∈ (ringPush b x).take m, isZero v = true := by
  intro v hv
  cases b with
  | nil => cases List.mem_of_mem_take hv
  | cons w b =>
    rw [ringPush_cons, List.take_append, List.mem_append] at hv
    obtain hv | hv := hv
    · exact h v (by simp [hv])
    · obtain hx | hm := hx
      · obtain rfl : v = x := List.mem_singleton.1 (List.mem_of_mem_take hv)
        exact hx
      · rw [Nat.sub_eq_zero_of_le (Nat.lt_succ_iff.1 hm)] at hv
        cases hv

/-- A silent section fed a finite sample answers a zero and stays silent, if it does not pass the sample on: because
`FF_FIRST` or the sample is a zero, and the sample is a zero or waits in the history. -/
theorem secFilter_silent {m k : Nat} {S : Section} {x : F32} (h : Silent (m + 1) S) (hx : isFinite x = true)
    (hnow : isZero S.ffFirst = true ∨ isZero x = true) (hlater : isZero x = true ∨ m < S.xh.length) :
    isZero (secFilter binary32 k S x).2 = true ∧ Silent m (secFilter binary32 k S x).1 := by
  have hxo := isZero_ringOldest h.xh
  have hyo := isZero_ringOldest (m := S.yh.length) (b := S.yh) fun v hv => h.yh v (List.mem_of_mem_take hv)
  have hy : isZero (secFilter binary32 k S x).2 = true := by
    rw [secFilter_output]
    exact isZero_fadd _ (isZero_fadd _ (isZero_fmul _ h.fbLast (isFinite_of_isZero hyo) (.inr hyo))
      (isZero_fmul _ h.ffFirst hx hnow)) (isZero_fmul _ h.ffLast (isFinite_of_isZero hxo) (.inr hxo))
  refine ⟨hy, h.ffFirst, h.ffLast, h.fbLast, isZero_of_mem_take_ringPush h.xh hlater, fun v hv => ?_⟩
  obtain hv | hv := List.mem_append.1 (List.mem_of_mem_tail hv)
  · exact h.yh v hv
  · obtain rfl : v = _ := List.mem_singleton.1 hv
    exact hy

/-- A comb that passes its input on `m` samples later at the earliest. -/
structure SilentComb (m : Nat) (S : Section) : Prop extends Silent m S where
  blocks : isZero S.ffFirst = true
  delays : m ≤ S.xh.length

theorem secFilter_silentComb {m k : Nat} {S : Section} {x : F32} (h : SilentComb (m + 1) S) (hx : isFinite x = true) :
    isZero (secFilter binary32 k S x).2 = true ∧ SilentComb m (secFilter binary32 k S x).1 := by
  obtain ⟨hy, hS⟩ := secFilter_silent (k := k) h.toSilent hx (.inl h.blocks) (.inr h.delays)
  refine ⟨hy, hS, h.blocks, ?_⟩
  rw [secFilter_section, ringPush_length]
  exact Nat.le_of_succ_le h.delays

/-- Fed a zero, a section with zeros for histories answers a zero and keeps such histories. -/
theorem secFilter_silent_of_isZero {k : Nat} {S : Section} {x : F32} (h : ∀ m, Silent m S) (hx : isZero x = true) :
    isZero (secFilter binary32 k S x).2 = true ∧ ∀ m, Silent m (secFilter binary32 k S x).1 := by
  have step (m : Nat) := secFilter_silent (k := k) (h (m + 1)) (isFinite_of_isZero hx) (.inr hx) (.inl hx)
  exact ⟨(step 0).1, fun m => (step m).2⟩

/-- The combs silent for `m` samples, the allpasses for as long as they are fed zeros. -/
structure SilentBank (m : Nat) (b : Bank) : Prop where
  comb0 : SilentComb m b.comb0
  comb1 : SilentComb m b.comb1
  comb2 : SilentComb m b.comb2
  comb3 : SilentComb m b.comb3
  ap0 : ∀ m, Silent m b.ap0
  ap1 : ∀ m, Silent m b.ap1
  ap2 : ∀ m, Silent m b.ap2

theorem bankStep_silent {m k : Nat} {b : Bank} {x : F32} (h : SilentBank (m + 1) b) (hx : isFinite x = true) :
    isZero (bankStep binary32 k b x).2 = true ∧ SilentBank m (bankStep binary32 k b x).1 := by
  obtain ⟨hy0, hc0⟩ := secFilter_silentComb (k := k) h.comb0 hx
  obtain ⟨hy1, hc1⟩ := secFilter_silentComb (k := k + 6) h.comb1 hx
  obtain ⟨hy2, hc2⟩ := secFilter_silentComb (k := k + 12) h.comb2 hx
  obtain ⟨hy3, hc3⟩ := secFilter_silentComb (k := k + 18) h.comb3 hx
  have hsum : isZero (combSum binary32 k b x) = true :=
    isZero_fadd _ (isZero_fadd _ (isZero_fadd _ (isZero_fadd _ rfl hy0) hy1) hy2) hy3
  obtain ⟨hz0, ha0⟩ := secFilter_silent_of_isZero (k := k + 24) h.ap0 hsum
  obtain ⟨hz1, ha1⟩ := secFilter_silent_of_isZero (k := k + 29) h.ap1 hz0
  obtain ⟨hz2, ha2⟩ := secFilter_silent_of_isZero (k := k + 34) h.ap2 hz1
  exact ⟨hz2, hc0, hc1, hc2, hc3, ha0, ha1, ha2⟩

theorem fold_bankStep_silent {xs : List F32} (k : Nat) {b : Bank} (hb : SilentBank xs.length b)
    (hx : ∀ x ∈ xs, isFinite x = true) : ∀ y ∈ (fold (bankStep binary32) 43 k b xs).2, isZero y = true := by
  induction xs generalizing k b with
  | nil => exact fun y hy => nomatch hy
  | cons x xs ih =>
    obtain ⟨hy, hb'⟩ := bankStep_silent (k := k) hb (hx x (by simp))
    exact List.forall_mem_cons.2 ⟨hy, ih (k + 43) hb' fun v hv => hx v (by simp [hv])⟩

/-- A fresh section is silent: its histories are zeros. -/
theorem silent_secNew (m d : Nat) {a b c : F32} (ha : isFinite a = true) (hb : isFinite b = true)
    (hc : isFinite c = true) : Silent m (secNew d a b c) := by
  have zeros (v : F32) (hv : v ∈ List.replicate d posZero) : isZero v = true := by
    rw [List.eq_of_mem_replicate hv]
    rfl
  exact ⟨ha, hb, hc, fun v hv => zeros v (List.mem_of_mem_take hv), zeros⟩

/-- Settles O60: a fresh bank is silent for as long as its shortest comb. -/
theorem rebuildSilencesTheTail : Obligations.RebuildSilencesTheTail := by
  intro s t xs _ h hxs hcombs haps
  obtain ⟨bank, hbank, rfl⟩ := rvrbRebuild_eq_ok.1 h
  obtain ⟨h0, h1, h2, h3, h4, h5, h6⟩ := buildBank_eq_ok hbank
  simp only [List.forall_mem_cons, List.not_mem_nil, false_imp_iff, implies_true, and_true] at hcombs haps
  obtain ⟨hc0, hc1, hc2, hc3⟩ := hcombs
  obtain ⟨ha0, ha1, ha2⟩ := haps
  have comb {p : GainDelay} {S : Section} (hS : combSection s.cfg p = .ok S)
      (hlong : xs.length ≤ S.d ∧ isFinite S.fbLast = true) : SilentComb xs.length S := by
    obtain ⟨d, -, -, -, rfl⟩ := exists_secNew_of_secOfDelay hS
    exact ⟨silent_secNew _ _ rfl rfl hlong.2, rfl, by simpa [secNew] using hlong.1⟩
  have ap {p : GainDelay} {S : Section} (hS : apSection s.cfg p = .ok S) (hgain : isFinite S.fbLast = true) :
      ∀ m, Silent m S := by
    obtain ⟨d, -, -, -, rfl⟩ := exists_secNew_of_secOfDelay hS
    exact fun m => silent_secNew m d hgain rfl hgain
  exact fold_bankStep_silent _ ⟨comb h0 hc0, comb h1 hc1, comb h2 hc2, comb h3 hc3, ap h4 ha0, ap h5 ha1, ap h6 ha2⟩ hxs

end Sys2Proof.Proofs

namespace Sys2Proof.Claims

open Sys2Proof Sys2Proof.Machine Sys2Proof.Proofs

/-! ## Operations on values that are the same but for NaN payloads (R14) -/

theorem SameF.refl (a : F32) : SameF a a := .inl rfl

section operations
variable {a a' b b' : F32}

/-- What turns a NaN into a NaN keeps values the same. -/
theorem SameF.map {f : F32 → F32} (hf : ∀ {v}, isNaN v = true → isNaN (f v) = true) (h : SameF a a') :
    SameF (f a) (f a') :=
  h.imp (congrArg f) (And.imp hf hf)

/-- So does an operation whose free value shows in a NaN only, and that answers a NaN for a NaN. -/
theorem SameF.map₂ {op : Nat → F32 → F32 → F32}
    (hindex : ∀ k j a b, op k a b = op j a b ∨ (op k a b = quietNaN k ∧ op j a b = quietNaN j))
    (hnan : ∀ k {a b}, isNaN a = true ∨ isNaN b = true → op k a b = quietNaN k) {k j : Nat} (ha : SameF a a')
    (hb : SameF b b') : SameF (op k a b) (op j a' b') := by
  have quiet : op k a b = quietNaN k → op j a' b' = quietNaN j → SameF (op k a b) (op j a' b') := fun h h' =>
    .inr ⟨h ▸ isNaN_quietNaN k, h' ▸ isNaN_quietNaN j⟩
  obtain rfl | ⟨na, na'⟩ := ha
  · obtain rfl | ⟨nb, nb'⟩ := hb
    · exact (hindex k j a b).elim .inl fun h => quiet h.1 h.2
    · exact quiet (hnan k (.inr nb)) (hnan j (.inr nb'))
  · exact quiet (hnan k (.inl na)) (hnan j (.inl na'))

variable {k j : Nat} (ha : SameF a a') (hb : SameF b b')
include ha

theorem SameF.neg : SameF (fneg a) (fneg a') := ha.map fun h => (isNaN_fneg _).trans h
theorem SameF.abs : SameF (fabs a) (fabs a') := ha.map fun h => (isNaN_fabs _).trans h
theorem SameF.sin : SameF (binary32.sin a) (binary32.sin a') := ha.map (sin32_nan _)
theorem SameF.cos : SameF (binary32.cos a) (binary32.cos a') := ha.map (cos32_nan _)
theorem SameF.exp : SameF (binary32.exp a) (binary32.exp a') := ha.map (exp32_nan _)

theorem SameF.roundI_eq : roundI a = roundI a' := by
  obtain rfl | ⟨na, na'⟩ := ha
  · exact rfl
  · rw [roundI_of_not_finite (isFinite_of_isNaN na), roundI_of_not_finite (isFinite_of_isNaN na')]

include hb

theorem SameF.add : SameF (binary32.add k a b) (binary32.add j a' b') := .map₂ fadd_index fadd_nan ha hb
theorem SameF.sub : SameF (binary32.sub k a b) (binary32.sub j a' b') := .map₂ fsub_index fsub_nan ha hb
theorem SameF.mul : SameF (binary32.mul k a b) (binary32.mul j a' b') := .map₂ fmul_index fmul_nan ha hb
theorem SameF.div : SameF (binary32.div k a b) (binary32.div j a' b') := .map₂ fdiv_index fdiv_nan ha hb

theorem SameF.lt_eq : binary32.lt a b = binary32.lt a' b' := flt_of_sameF ha hb

theorem SameF.le_eq : binary32.le a b = binary32.le a' b' := by
  obtain rfl | ⟨na, na'⟩ := ha
  · obtain rfl | ⟨nb, nb'⟩ := hb
    · exact rfl
    · simp [fle, ordered, nb, nb']
  · simp [fle, ordered, na, na']

/-- A choice between values that are the same, on tests that come out alike. -/
theorem SameF.ite {p q : Bool} (h : p = q) : SameF (if p then a else b) (if q then a' else b') := by
  subst h
  cases p
  · exact hb
  · exact ha

end operations

/-! ## Rings whose entries are the same (R62 to R65) -/

theorem SameL.refl (b : List F32) : SameL b b := List.forall₂_same.2 fun _ _ => .refl _

section rings
variable {b b' : List F32} (h : SameL b b')
include h

theorem SameL.oldest : SameF (ringOldest b) (ringOldest b') := by
  cases h with
  | nil => exact .refl _
  | cons hv _ => exact hv

theorem SameL.push {v v' : F32} (hv : SameF v v') : SameL (ringPush b v) (ringPush b' v') := by
  rw [ringPush, ringPush, ← List.drop_one, ← List.drop_one]
  exact List.forall₂_drop 1 (List.rel_append h (.cons hv .nil))

theorem SameL.fill (v : F32) : SameL (ringFill b v) (ringFill b' v) := by
  rw [ringFill, ringFill, h.length_eq]
  exact .refl _

theorem SameL.getElem? (i : Nat) : Option.Rel SameF b[i]? b'[i]? := by
  induction h generalizing i with
  | nil => exact .none
  | cons hv _ ih =>
    cases i with
    | zero => exact .some hv
    | succ i => exact ih i

theorem SameL.ringAt (o : TapOrigin) (i : Nat) : Option.Rel SameF (ringAt o b i) (ringAt o b' i) := by
  cases o with
  | oldest => exact h.getElem? i
  | newest => exact SameL.getElem? (List.rel_reverse h) i

end rings

theorem sameL_cons {a a' : F32} {b b' : List F32} : SameL (a :: b) (a' :: b') ↔ SameF a a' ∧ SameL b b' :=
  List.forall₂_cons

end Sys2Proof.Claims

namespace Sys2Proof.Proofs

open Sys2Proof Sys2Proof.Machine Sys2Proof.Claims

/-! ## The datapaths keep registers the same but for NaN payloads (R109, R213) -/

theorem mix_same {k j : Nat} {wet wet' x x' g g' : F32} (hw : SameF wet wet') (hx : SameF x x') (hg : SameF g g') :
    SameF (mix binary32 k wet x g) (mix binary32 j wet' x' g') :=
  .add (.mul hw hg) (.mul hx (.sub (.refl one) hg))

theorem enabledOut_same (en : Bool) {y y' x x' : F32} (hy : SameF y y') (hx : SameF x x') :
    SameF (enabledOut en y x) (enabledOut en y' x') := .ite hy hx rfl

theorem lfoAdvance_same {k j : Nat} {fs fs' freq freq' phase phase' : F32} (hfs : SameF fs fs')
    (hf : SameF freq freq') (hp : SameF phase phase') :
    SameF (lfoAdvance binary32 k fs freq phase) (lfoAdvance binary32 j fs' freq' phase') := by
  have hnext : SameF (binary32.add (k + 1) phase (binary32.div k twoPi32 fs))
      (binary32.add (j + 1) phase' (binary32.div j twoPi32 fs')) := .add hp (.div (.refl _) hfs)
  exact .ite (.refl posZero) hnext (SameF.lt_eq (.div (.refl _) hf) hnext)

theorem sameSection_refl (S : Section) : SameSection S S := ⟨rfl, rfl, rfl, rfl, .refl _, .refl _⟩

theorem secFilter_same {k j : Nat} {S T : Section} {x x' : F32} (h : SameSection S T) (hx : SameF x x') :
    SameSection (secFilter binary32 k S x).1 (secFilter binary32 j T x').1 ∧
      SameF (secFilter binary32 k S x).2 (secFilter binary32 j T x').2 := by
  obtain ⟨hd, hfirst, hlast, hfb, hxh, hyh⟩ := h
  have hy : SameF (secFilter binary32 k S x).2 (secFilter binary32 j T x').2 := by
    rw [secFilter_output, secFilter_output, hfirst, hlast, hfb]
    exact .add (.add (.mul (.refl _) hyh.oldest) (.mul (.refl _) hx)) (.mul (.refl _) hxh.oldest)
  exact ⟨⟨hd, hfirst, hlast, hfb, hxh.push hx, hyh.push hy⟩, hy⟩

theorem sameBank_refl (b : Bank) : SameBank b b := by
  constructor <;> exact sameSection_refl _

theorem combSum_same {k j : Nat} {b c : Bank} {x x' : F32} (h : SameBank b c) (hx : SameF x x') :
    SameF (combSum binary32 k b x) (combSum binary32 j c x') := by
  obtain ⟨-, hy0⟩ := secFilter_same (k := k) (j := j) h.comb0 hx
  obtain ⟨-, hy1⟩ := secFilter_same (k := k + 6) (j := j + 6) h.comb1 hx
  obtain ⟨-, hy2⟩ := secFilter_same (k := k + 12) (j := j + 12) h.comb2 hx
  obtain ⟨-, hy3⟩ := secFilter_same (k := k + 18) (j := j + 18) h.comb3 hx
  exact .add (.add (.add (.add (.refl posZero) hy0) hy1) hy2) hy3

theorem bankStep_same {k j : Nat} {b c : Bank} {x x' : F32} (h : SameBank b c) (hx : SameF x x') :
    SameBank (bankStep binary32 k b x).1 (bankStep binary32 j c x').1 ∧
      SameF (bankStep binary32 k b x).2 (bankStep binary32 j c x').2 := by
  obtain ⟨ha0, hz0⟩ := secFilter_same (k := k + 24) (j := j + 24) h.ap0 (combSum_same (k := k) (j := j) h hx)
  obtain ⟨ha1, hz1⟩ := secFilter_same (k := k + 29) (j := j + 29) h.ap1 hz0
  obtain ⟨ha2, hz2⟩ := secFilter_same (k := k + 34) (j := j + 34) h.ap2 hz1
  exact ⟨⟨(secFilter_same h.comb0 hx).1, (secFilter_same h.comb1 hx).1, (secFilter_same h.comb2 hx).1,
    (secFilter_same h.comb3 hx).1, ha0, ha1, ha2⟩, hz2⟩

/-- `SHLF` with equal parameters and coefficients and the same delay registers. -/
structure SameShlf (f g : Shlf) : Prop where
  params : { f with z1 := posZero, z2 := posZero } = { g with z1 := posZero, z2 := posZero }
  z1 : SameF f.z1 g.z1
  z2 : SameF f.z2 g.z2

theorem SameShlf.state {f g : Shlf} (h : SameShlf f g) : SameL [f.z1, f.z2] [g.z1, g.z2] := .cons h.z1 (.cons h.z2 .nil)

/-- Writing parameters alike, the delay registers kept. -/
theorem SameShlf.upd {f g : Shlf} (h : SameShlf f g) (upd : Shlf → Shlf)
    (hupd : ∀ (f : Shlf) a b, upd { f with z1 := a, z2 := b } = { upd f with z1 := a, z2 := b }) :
    SameShlf (upd f) (upd g) := by
  have hz1 (f : Shlf) : (upd f).z1 = f.z1 := (congrArg Shlf.z1 (hupd f f.z1 f.z2) :)
  have hz2 (f : Shlf) : (upd f).z2 = f.z2 := (congrArg Shlf.z2 (hupd f f.z1 f.z2) :)
  refine ⟨?_, ?_, ?_⟩
  · rw [← hupd, ← hupd, h.params]
  · rw [hz1, hz1]
    exact h.z1
  · rw [hz2, hz2]
    exact h.z2

theorem bqStep_same {k j : Nat} {f g : Shlf} {x x' : F32} (h : SameShlf f g) (hx : SameF x x') :
    SameShlf (bqStep binary32 k f x).1 (bqStep binary32 j g x').1 ∧
      SameF (bqStep binary32 k f x).2 (bqStep binary32 j g x').2 := by
  have hcoef : f.coef = g.coef := (congrArg Shlf.coef h.params :)
  have same (p : ShelfCoef → F32) : SameF (p f.coef) (p g.coef) := .inl (congrArg p hcoef)
  have hy : SameF (bqStep binary32 k f x).2 (bqStep binary32 j g x').2 := .add h.z1 (.mul hx (same (·.b0)))
  exact ⟨⟨h.params, .sub (.add h.z2 (.mul hx (same (·.b1)))) (.mul hy (same (·.a1))),
    .sub (.mul hx (same (·.b2))) (.mul hy (same (·.a2)))⟩, hy⟩

/-- `WAH` with equal parameters, the same filter outputs and the same phase. -/
structure SameWah (w v : Wah) : Prop where
  params : { w with yLp := posZero, yBp := posZero, yHp := posZero, phase := posZero } =
    { v with yLp := posZero, yBp := posZero, yHp := posZero, phase := posZero }
  yLp : SameF w.yLp v.yLp
  yBp : SameF w.yBp v.yBp
  yHp : SameF w.yHp v.yHp
  phase : SameF w.phase v.phase

theorem SameWah.state {w v : Wah} (h : SameWah w v) :
    SameL [w.yLp, w.yBp, w.yHp, w.phase] [v.yLp, v.yBp, v.yHp, v.phase] :=
  .cons h.yLp (.cons h.yBp (.cons h.yHp (.cons h.phase .nil)))

/-- Writing parameters alike, the filter outputs and the phase kept. -/
theorem SameWah.upd {w v : Wah} (h : SameWah w v) (upd : Wah → Wah)
    (hupd : ∀ (w : Wah) a b c p, upd { w with yLp := a, yBp := b, yHp := c, phase := p } =
      { upd w with yLp := a, yBp := b, yHp := c, phase := p }) : SameWah (upd w) (upd v) := by
  have hstate (w : Wah) := hupd w w.yLp w.yBp w.yHp w.phase
  have hlp (w : Wah) : (upd w).yLp = w.yLp := (congrArg Wah.yLp (hstate w) :)
  have hbp (w : Wah) : (upd w).yBp = w.yBp := (congrArg Wah.yBp (hstate w) :)
  have hhp (w : Wah) : (upd w).yHp = w.yHp := (congrArg Wah.yHp (hstate w) :)
  have hphase (w : Wah) : (upd w).phase = w.phase := (congrArg Wah.phase (hstate w) :)
  refine ⟨?_, ?_, ?_, ?_, ?_⟩
  · rw [← hupd, ← hupd, h.params]
  · rw [hlp, hlp]
    exact h.yLp
  · rw [hbp, hbp]
    exact h.yBp
  · rw [hhp, hhp]
    exact h.yHp
  · rw [hphase, hphase]
    exact h.phase

section wah
variable {k j : Nat} {fs fs' : F32} {w v : Wah} (hfs : SameF fs fs') (h : SameWah w v)
include h

theorem svfStep_same {x x' f f' q q' : F32} (hx : SameF x x') (hf : SameF f f') (hq : SameF q q') :
    SameWah (svfStep binary32 k w x f q).1 (svfStep binary32 j v x' f' q').1 ∧
      SameF (svfStep binary32 k w x f q).2 (svfStep binary32 j v x' f' q').2 := by
  have hhp : SameF (svfStep binary32 k w x f q).1.yHp (svfStep binary32 j v x' f' q').1.yHp :=
    .sub (.sub hx h.yLp) (.mul hq h.yBp)
  have hbp : SameF (svfStep binary32 k w x f q).1.yBp (svfStep binary32 j v x' f' q').1.yBp :=
    .add (.mul hf hhp) h.yBp
  exact ⟨{ h with yHp := hhp, yBp := hbp, yLp := .add (.mul hf hbp) h.yLp }, hbp⟩
include hfs

theorem wahLfoNext_same :
    SameWah (wahLfoNext binary32 k fs w).1 (wahLfoNext binary32 j fs' v).1 ∧
      SameF (wahLfoNext binary32 k fs w).2 (wahLfoNext binary32 j fs' v).2 := by
  have hfreq : SameF w.lfoFreq v.lfoFreq := .inl (congrArg Wah.lfoFreq h.params :)
  exact ⟨{ h with phase := lfoAdvance_same hfs hfreq h.phase },
    .add (.refl half) (.mul (.refl half) (SameF.mul h.phase hfreq).sin)⟩

/-- The envelope is the side-chain's, or the next value of the LFO. -/
theorem wahEnv_same {e e' : Option F32} (he : Option.Rel SameF e e') :
    SameWah (wahEnv binary32 k fs e w).1 (wahEnv binary32 j fs' e' v).1 ∧
      SameF (wahEnv binary32 k fs e w).2 (wahEnv binary32 j fs' e' v).2 := by
  cases he with
  | some hv => exact ⟨h, hv⟩
  | none => exact wahLfoNext_same hfs h

theorem wahCoeffs_same {env env' : F32} (henv : SameF env env') :
    SameF (wahCoeffs binary32 k fs w env).1 (wahCoeffs binary32 j fs' v env').1 ∧
      SameF (wahCoeffs binary32 k fs w env).2 (wahCoeffs binary32 j fs' v env').2 := by
  have hmin : SameF w.cutoffMin v.cutoffMin := .inl (congrArg Wah.cutoffMin h.params :)
  have hmax : SameF w.cutoffMax v.cutoffMax := .inl (congrArg Wah.cutoffMax h.params :)
  have hdamp : SameF w.damp v.damp := .inl (congrArg Wah.damp h.params :)
  have hfc : SameF (wahCutoff binary32 k w env) (wahCutoff binary32 j v env') :=
    .add hmin (.mul (.sub hmax hmin) henv)
  exact ⟨.mul (.refl two) (SameF.div (.mul (.refl pi32) hfc) hfs).sin, .div hdamp (.refl sqrt2_32)⟩

theorem wahFilter_same {e e' : Option F32} {x x' : F32} (he : Option.Rel SameF e e') (hx : SameF x x') :
    SameWah (wahFilter binary32 k fs e w x).1 (wahFilter binary32 j fs' e' v x').1 ∧
      SameF (wahFilter binary32 k fs e w x).2 (wahFilter binary32 j fs' e' v x').2 := by
  obtain ⟨hw, henv⟩ := wahEnv_same (k := k) (j := j) hfs h he
  obtain ⟨hf, hq⟩ := wahCoeffs_same (k := k + 6) (j := j + 6) hfs hw henv
  exact svfStep_same hw hx hf hq

end wah

/-! ## The Flanger's sample, which may have no meaning -/

/-- The same answer, or the same situation without a meaning. -/
def SameExcept {α : Type} (R : α → α → Prop) : Except NoMeaning α → Except NoMeaning α → Prop
  | .ok a, .ok b => R a b
  | .error v, .error w => v = w
  | .ok _, .error _ => False
  | .error _, .ok _ => False

/-- `FLNG` with equal parameters, the same delay line and the same phase. -/
structure SameFlng (f g : Flng) : Prop where
  params : { f with buf := [], phase := posZero } = { g with buf := [], phase := posZero }
  buf : SameL f.buf g.buf
  phase : SameF f.phase g.phase

/-- Writing parameters alike, the delay line and the phase kept. -/
theorem SameFlng.upd {f g : Flng} (h : SameFlng f g) (upd : Flng → Flng)
    (hupd : ∀ (f : Flng) b p, upd { f with buf := b, phase := p } = { upd f with buf := b, phase := p }) :
    SameFlng (upd f) (upd g) := by
  have hbuf (f : Flng) : (upd f).buf = f.buf := (congrArg Flng.buf (hupd f f.buf f.phase) :)
  have hphase (f : Flng) : (upd f).phase = f.phase := (congrArg Flng.phase (hupd f f.buf f.phase) :)
  refine ⟨?_, ?_, ?_⟩
  · rw [← hupd, ← hupd, h.params]
  · rw [hbuf, hbuf]
    exact h.buf
  · rw [hphase, hphase]
    exact h.phase

theorem flngTap_same (o : TapOrigin) {b b' : List F32} {freq freq' : F32} {idx idx' : Option Int} (h : SameL b b')
    (hf : freq = freq') (hi : idx = idx') : SameExcept SameF (flngTap o b freq idx) (flngTap o b' freq' idx') := by
  subst hf hi
  unfold flngTap
  split
  · rfl
  next i =>
    split
    · have hread := h.ringAt o i.toNat
      revert hread
      cases ringAt o b i.toNat <;> cases ringAt o b' i.toNat <;> intro hread <;> cases hread
      · rfl
      · assumption
    · rfl

theorem SameExcept.cases {α : Type} {R : α → α → Prop} {a b : Except NoMeaning α} (h : SameExcept R a b) :
    (∃ why, a = .error why ∧ b = .error why) ∨ ∃ x y, a = .ok x ∧ b = .ok y ∧ R x y := by
  cases a <;> cases b
  · cases h; exact .inl ⟨_, rfl, rfl⟩
  · cases h
  · cases h
  · exact .inr ⟨_, _, rfl, rfl, h⟩

theorem flngFilter_same {k j : Nat} {cfg cfg' : Cfg} {f g : Flng} {x x' : F32} (hnum : cfg.num = .binary32)
    (hcfg : cfg = cfg') (h : SameFlng f g) (hx : SameF x x') :
    SameExcept (fun r q => SameFlng r.1 q.1 ∧ SameF r.2 q.2) (flngFilter k cfg f x) (flngFilter j cfg' g x') := by
  subst hcfg
  have hN := numOf_binary32 hnum
  have hfreq : f.lfoFreq = g.lfoFreq := (congrArg Flng.lfoFreq h.params :)
  have hcap : f.cap = g.cap := (congrArg Flng.cap h.params :)
  have hgamma : f.wetGamma = g.wetGamma := (congrArg Flng.wetGamma h.params :)
  have hvalue : SameF (flngLfoValue binary32 k f) (flngLfoValue binary32 j g) :=
    .sub (.refl half) (.mul (.refl half) (SameF.mul h.phase (.inl hfreq)).cos)
  have hindex : flngIndex (numOf cfg) (k + 6) f.cap (flngLfoNext (numOf cfg) k cfg.fs f).2 =
      flngIndex (numOf cfg) (j + 6) g.cap (flngLfoNext (numOf cfg) j cfg.fs g).2 := by
    rw [hN, hcap]
    exact SameF.roundI_eq (.mul hvalue (.refl _))
  obtain ⟨why, hf, hg⟩ | ⟨wet, wet', hf, hg, hwet⟩ := (flngTap_same cfg.tapOrigin h.buf hfreq hindex).cases
  · rw [flngFilter_of_tap_error x hf, flngFilter_of_tap_error x' hg]
    rfl
  · rw [flngFilter_of_tap x hf, flngFilter_of_tap x' hg, hN]
    exact ⟨⟨h.params, h.buf.push hx, lfoAdvance_same (.refl _) (.inl hfreq) h.phase⟩, mix_same hwet hx (.inl hgamma)⟩

/-! ## The Waveshaper's sample -/

theorem curve_same {k j : Nat} (c : Curve) {m m' : F32} (h : SameF m m') :
    SameF (curve binary32 k c m) (curve binary32 j c m') := by
  cases c with
  | l => exact h
  | q => exact .sub (.refl one) (.mul (.sub (.refl one) h) (.sub (.refl one) h))
  | e => exact .div (.sub (.refl one) h.neg.exp) (.refl expM05_32)
  | i => exact .div (.mul (.refl two) h) (.add (.refl one) h)
  | s => exact (SameF.mul (.refl halfPi32) h).sin

theorem saturate_same {k j : Nat} (c : Curve) {m m' : F32} (h : SameF m m') :
    SameF (saturate binary32 k c m) (saturate binary32 j c m') := by
  have hc : SameF (curve binary32 k c m) (curve binary32 j c m') := curve_same c h
  exact .ite (.refl one) (.ite (.refl one) hc (SameF.lt_eq (.refl one) hc)) (SameF.le_eq (.refl one) h)

theorem shape_same {k j : Nat} {d d' : Dist} {x x' : F32} (hd : d = d') (h : SameF x x') :
    SameF (shape binary32 k d x) (shape binary32 j d' x') :=
  hd ▸ .mul (.ite (.refl minusOne) (.refl one) (SameF.lt_eq h (.refl posZero)))
    (saturate_same d.func (.mul h.abs (.refl d.boost)))

end Sys2Proof.Proofs

namespace Sys2Proof.Claims

open Sys2Proof Sys2Proof.Machine Sys2Proof.Proofs

/-! ## States that are the same but for NaN payloads -/

section state
variable {s t : State} (h : SameState s t)
include h

theorem SameState.shlf : SameShlf s.shlf t.shlf := by
  obtain ⟨h1, h'⟩ := sameL_cons.1 h.shlfState
  obtain ⟨h2, -⟩ := sameL_cons.1 h'
  exact ⟨h.shlfParams, h1, h2⟩

theorem SameState.wah : SameWah s.wah t.wah := by
  obtain ⟨h1, h'⟩ := sameL_cons.1 h.wahState
  obtain ⟨h2, h'⟩ := sameL_cons.1 h'
  obtain ⟨h3, h'⟩ := sameL_cons.1 h'
  obtain ⟨h4, -⟩ := sameL_cons.1 h'
  exact ⟨h.wahParams, h1, h2, h3, h4⟩

theorem SameState.flng : SameFlng s.flng t.flng := by
  obtain ⟨hphase, hbuf⟩ := sameL_cons.1 h.flngState
  exact ⟨h.flngParams, hbuf, hphase⟩

/-! The registers of one unit written alike, any number of free values used. -/

theorem SameState.setSec {S T : Section} (n m : Nat) (hS : SameSection S T) :
    SameState { s with sec := S, draws := n } { t with sec := T, draws := m } := { h with sec := hS }

theorem SameState.setShlf {f g : Shlf} (n m : Nat) (hf : SameShlf f g) :
    SameState { s with shlf := f, draws := n } { t with shlf := g, draws := m } :=
  { h with shlfParams := hf.params, shlfState := hf.state }

theorem SameState.setWah {w v : Wah} (n m : Nat) (hw : SameWah w v) :
    SameState { s with wah := w, draws := n } { t with wah := v, draws := m } :=
  { h with wahParams := hw.params, wahState := hw.state }

theorem SameState.setFlng {f g : Flng} (n m : Nat) (hf : SameFlng f g) :
    SameState { s with flng := f, draws := n } { t with flng := g, draws := m } :=
  { h with flngParams := hf.params, flngState := .cons hf.phase hf.buf }

theorem SameState.setDist {d d' : Dist} (n m : Nat) (hd : d = d') :
    SameState { s with dist := d, draws := n } { t with dist := d', draws := m } := { h with dist := hd }

theorem SameState.setBank {b c : Bank} (n m : Nat) (hb : SameBank b c) :
    SameState { s with rvrb := { s.rvrb with bank := b }, draws := n }
      { t with rvrb := { t.rvrb with bank := c }, draws := m } :=
  { h with rvrbParams := congrArg (fun r : Rvrb => { r with bank := c }) h.rvrbParams, bank := hb }

/-- Writing `RVRB`'s parameters alike, the bank kept. -/
theorem SameState.setRvrb (upd : Rvrb → Rvrb)
    (hupd : ∀ (r : Rvrb) (b : Bank), upd { r with bank := b } = { upd r with bank := b }) :
    SameState { s with rvrb := upd s.rvrb } { t with rvrb := upd t.rvrb } := by
  have hbank (r : Rvrb) : (upd r).bank = r.bank := (congrArg Rvrb.bank (hupd r r.bank) :)
  have hparams : { upd s.rvrb with bank := t.rvrb.bank } = upd t.rvrb := by rw [← hupd, h.rvrbParams]
  refine { h with rvrbParams := ?_, bank := ?_ }
  · rw [hbank]
    exact hparams
  · rw [hbank, hbank]
    exact h.bank

theorem SameState.respond (r : ResponseWord) : SameState (respond r s) (respond r t) :=
  { h with resp := congrArg (· ++ [r]) h.resp }

theorem SameState.withIO {q r : State} (h0 : SameL q.in0 r.in0) (h1 : SameL q.in1 r.in1) (hout : SameL q.out r.out)
    (hbusy : SameBusy q.busy r.busy) : SameState (withIO q s) (withIO r t) :=
  { h with in0 := h0, in1 := h1, out := hout, busy := hbusy }

end state

end Sys2Proof.Claims

namespace Sys2Proof.Proofs

open Sys2Proof Sys2Proof.Machine Sys2Proof.Claims

/-! ## Samples, the loop of a `PROC` and commands keep states the same (R213) -/

/-- States that are the same, with the same output. -/
def SameResult (r q : State × F32) : Prop := SameState r.1 q.1 ∧ SameF r.2 q.2

theorem distSample_same {s t : State} {x x' : F32} (hnum : s.cfg.num = .binary32) (h : SameState s t)
    (hx : SameF x x') : SameResult (distSample x s) (distSample x' t) := by
  cases hen : s.dist.en with
  | false =>
    rw [distSample_of_disabled x hen, distSample_of_disabled x' (h.dist ▸ hen)]
    exact ⟨h, hx⟩
  | true =>
    rw [distSample_of_enabled x hen, distSample_of_enabled x' (h.dist ▸ hen), distOne, distOne, numOf_binary32 hnum,
      numOf_binary32 (h.cfg ▸ hnum : t.cfg.num = .binary32)]
    exact ⟨{ h with }, mix_same (shape_same h.dist hx) hx (.inl (congrArg Dist.wetGamma h.dist))⟩

/-- The sample of every unit: the datapath keeps its registers the same, and the enable bits are equal. -/
theorem unitSample_same {u : UnitId} {s t : State} {e e' : Option F32} {x x' : F32} (hnum : s.cfg.num = .binary32)
    (h : SameState s t) (he : Option.Rel SameF e e') (hx : SameF x x') :
    SameExcept SameResult (unitSample u e x s) (unitSample u e' x' t) := by
  have hN : numOf s.cfg = binary32 := numOf_binary32 hnum
  have hN' : numOf t.cfg = binary32 := h.cfg ▸ hN
  cases u with
  | sec =>
    obtain ⟨hsec, hy⟩ := secFilter_same (k := s.draws) (j := t.draws) h.sec hx
    rw [unitSample, unitSample, secSample, secSample, hN, hN']
    exact ⟨h.setSec _ _ hsec, hy⟩
  | shlf =>
    obtain ⟨hshlf, hy⟩ := bqStep_same (k := s.draws) (j := t.draws) h.shlf hx
    have hen : s.shlf.en = t.shlf.en := (congrArg Shlf.en h.shlfParams :)
    rw [unitSample, unitSample, shlfSample, shlfSample, hN, hN', hen]
    exact ⟨h.setShlf _ _ hshlf, enabledOut_same _ hy hx⟩
  | wah =>
    obtain ⟨hwah, hy⟩ := wahFilter_same (k := s.draws) (j := t.draws) (.inl (congrArg Cfg.fs h.cfg)) h.wah he hx
    have hen : s.wah.en = t.wah.en := (congrArg Wah.en h.wahParams :)
    rw [unitSample, unitSample, wahSample, wahSample, hN, hN', hen]
    exact ⟨h.setWah _ _ hwah, enabledOut_same _ hy hx⟩
  | flng =>
    have hen : s.flng.en = t.flng.en := (congrArg Flng.en h.flngParams :)
    rw [unitSample, unitSample, flngSample, flngSample, hen]
    obtain ⟨why, hf, hg⟩ | ⟨r, q, hf, hg, hflng, hy⟩ :=
      (flngFilter_same (k := s.draws) (j := t.draws) hnum h.cfg h.flng hx).cases
    · rw [hf, hg]
      rfl
    · rw [hf, hg]
      exact ⟨h.setFlng _ _ hflng, enabledOut_same _ hy hx⟩
  | dist => exact distSample_same hnum h hx
  | rvrb =>
    obtain ⟨hbank, hy⟩ := bankStep_same (k := s.draws) (j := t.draws) h.bank hx
    have hen : s.rvrb.en = t.rvrb.en := (congrArg Rvrb.en h.rvrbParams :)
    have hgamma : SameF s.rvrb.wetGamma t.rvrb.wetGamma := .inl (congrArg Rvrb.wetGamma h.rvrbParams :)
    rw [unitSample, unitSample, rvrbSample, rvrbSample, hN, hN', hen]
    exact ⟨h.setBank _ _ hbank, enabledOut_same _ (mix_same hy hx hgamma) hx⟩

/-- A side-chain sample and what is left of `in1`, if there is one, in two streams that are the same. -/
theorem exists_side_same {e : Option F32} {es l : List F32} (h : SameL (e.toList ++ es) l) :
    ∃ e' es', Option.Rel SameF e e' ∧ l = e'.toList ++ es' ∧ SameL es es' := by
  cases e with
  | none => exact ⟨none, l, .none, rfl, h⟩
  | some v =>
    obtain ⟨v', es', hv, hes, rfl⟩ := List.forall₂_cons_left_iff.1 h
    exact ⟨some v', es', .some hv, rfl, hes⟩

theorem isSome_same {e e' : Option F32} (h : Option.Rel SameF e e') : e'.isSome = e.isSome := by
  cases h <;> rfl

/-- The loop holds at the same place, or processes samples that are the same. -/
theorem procLoop_same (u : UnitId) (sc : Bool) (n left : Nat) {s t : State} (hnum : s.cfg.num = .binary32)
    (h : SameState s t) : SameOutcome (procLoop u sc n left s) (procLoop u sc n left t) := by
  induction left generalizing s t with
  | zero =>
    have hidle : SameState { s with busy := none } { t with busy := none } := { h with busy := trivial }
    exact hidle.respond _
  | succ left ih =>
    have hin0 := h.in0
    have hin1 := h.in1
    obtain h0 | ⟨x, xs, h0, rfl, h1⟩ | ⟨x, xs, e, es, h0, hsc, h1⟩ := nextSample_cases sc s
    · rw [h0] at hin0
      rw [procLoop_empty u sc n left h0, procLoop_empty u sc n left (List.forall₂_nil_left_iff.1 hin0)]
      exact { h with busy := ⟨rfl, rfl, rfl, rfl, .nil⟩ }
    · rw [h0] at hin0
      rw [h1] at hin1
      obtain ⟨x', xs', hx, hxs, h0'⟩ := List.forall₂_cons_left_iff.1 hin0
      rw [procLoop_empty_side u n left h0 h1, procLoop_empty_side u n left h0' (List.forall₂_nil_left_iff.1 hin1)]
      exact { h with in0 := hxs, busy := ⟨rfl, rfl, rfl, rfl, .cons hx .nil⟩ }
    · rw [h0] at hin0
      rw [h1] at hin1
      obtain ⟨x', xs', hx, hxs, h0'⟩ := List.forall₂_cons_left_iff.1 hin0
      obtain ⟨e', es', he, h1', hes⟩ := exists_side_same hin1
      have hsc' := (isSome_same he).trans hsc
      change SameOutcome (procLoop u sc n (left + 1) (withIO s s)) (procLoop u sc n (left + 1) (withIO t t))
      obtain ⟨why, hu, hu'⟩ | ⟨⟨s', y⟩, ⟨t', y'⟩, hu, hu', hs, hy⟩ :=
        (unitSample_same (u := u) hnum h he hx).cases
      · rw [procLoop_sample_error n left s h0 hsc h1 hu, procLoop_sample_error n left t h0' hsc' h1' hu']
        rfl
      · rw [procLoop_sample n left s h0 hsc h1 hu, procLoop_sample n left t h0' hsc' h1' hu']
        obtain ⟨⟨hcfg, -⟩, -⟩ := unitSample_frame hu
        refine ih (hcfg ▸ hnum) (hs.withIO hxs hes ?_ h.busy)
        exact List.rel_append h.out (.cons hy .nil)

/-- With both modes preset a rebuild uses no free value. -/
theorem started_same (u : UnitId) {s t : State} (h : SameState s t) (hc : s.rvrb.combMode = .preset)
    (ha : s.rvrb.apMode = .preset) : SameExcept SameState (started u s) (started u t) := by
  cases u with
  | rvrb =>
    have hdirty : t.rvrb.dirty = s.rvrb.dirty := (congrArg Rvrb.dirty h.rvrbParams.symm :)
    have hc' : t.rvrb.combMode = s.rvrb.combMode := (congrArg Rvrb.combMode h.rvrbParams.symm :)
    have ha' : t.rvrb.apMode = s.rvrb.apMode := (congrArg Rvrb.apMode h.rvrbParams.symm :)
    have hbank : buildBank t.cfg t.rvrb.combMode t.rvrb.apMode t.draws =
        buildBank s.cfg s.rvrb.combMode s.rvrb.apMode s.draws := by
      rw [hc', ha', hc, ha, h.cfg, buildBank_preset]
    rw [started, started, rvrbRefresh, rvrbRefresh, hdirty]
    split
    · rw [rvrbRebuild, rvrbRebuild, hbank]
      cases buildBank s.cfg s.rvrb.combMode s.rvrb.apMode s.draws with
      | error why => rfl
      | ok bank =>
        have hbuilt := h.setBank (s.draws + 11) (t.draws + 11) (sameBank_refl bank)
        exact hbuilt.setRvrb clearDirty fun _ _ => rfl
    · exact h
  | sec | shlf | wah | flng | dist => exact h

/-- `shelf_rederive` decides on the configuration and its operands, and commits parameters only (R125). -/
theorem shelfRederive_same {ty ty' : Option ShelfType} {g g' c c' : F32} {s t : State} (hty : ty = ty') (hg : g = g')
    (hc : c = c') (h : SameState s t) :
    SameOutcome (.next (shelfRederive ty g c s)) (.next (shelfRederive ty' g' c' t)) := by
  subst hty hg hc
  cases ty with
  | none => exact h.respond _
  | some ty =>
    have hdesign : designFor s.cfg ty g c = designFor t.cfg ty g c := by rw [h.cfg]
    have hvalid : cutoffValid s.cfg c = cutoffValid t.cfg c := by rw [h.cfg]
    rw [shelfRederive, shelfRederive, shelfCommit, shelfCommit, hdesign, hvalid]
    split
    · have hshlf := h.shlf.upd (fun f => { f with
        shelfType := ty, gainDb := g, cutoff := c, coef := designFor t.cfg ty g c }) fun _ _ _ => rfl
      exact (h.setShlf s.draws t.draws hshlf).respond (okWord 0)
    · exact h.respond _

/-- A command that is not a `PROC` writes parameters alike. -/
theorem exec_parameter_same {i : Instr} (hi : i.isProc = false) {s t : State} (h : SameState s t) :
    SameOutcome (exec i s) (exec i t) := by
  have hgain : s.shlf.gainDb = t.shlf.gainDb := (congrArg Shlf.gainDb h.shlfParams :)
  have hcutoff : s.shlf.cutoff = t.shlf.cutoff := (congrArg Shlf.cutoff h.shlfParams :)
  have htype : s.shlf.shelfType = t.shlf.shelfType := (congrArg Shlf.shelfType h.shlfParams :)
  have answer {a b : State} (hab : SameState a b) : SameOutcome (.next (respondOk 0 a)) (.next (respondOk 0 b)) :=
    hab.respond _
  have shlf (upd) (hupd) := answer (h.setShlf s.draws t.draws (h.shlf.upd upd hupd))
  have wah (upd) (hupd) := answer (h.setWah s.draws t.draws (h.wah.upd upd hupd))
  have flng (upd) (hupd) := answer (h.setFlng s.draws t.draws (h.flng.upd upd hupd))
  have dist (upd : Dist → Dist) := answer (h.setDist s.draws t.draws (congrArg upd h.dist))
  have rvrb (upd) (hupd) := answer (h.setRvrb upd hupd)
  cases i with
  | procSec | procShlf | procWah | procFlng | procDist | procRvrb => cases hi
  | setTapsSec => exact answer (h.setSec s.draws t.draws { h.sec with ffFirst := rfl, ffLast := rfl, fbLast := rfl })
  | resetHistSec => exact answer (h.setSec s.draws t.draws { h.sec with xh := h.sec.xh.fill _, yh := h.sec.yh.fill _ })
  | setTypeShlf ty => exact shelfRederive_same rfl hgain hcutoff h
  | setGainShlf g => exact shelfRederive_same (congrArg some htype) rfl hcutoff h
  | setCutoffShlf c => exact shelfRederive_same (congrArg some htype) hgain rfl h
  | setEnabledShlf en => exact shlf ({ · with en := en }) fun _ _ _ => rfl
  | setEnabledWah en => exact wah ({ · with en := en }) fun _ _ _ _ _ => rfl
  | setLfoFreqWah v => exact wah ({ · with lfoFreq := v }) fun _ _ _ _ _ => rfl
  | setCutoffMinWah v => exact wah ({ · with cutoffMin := v }) fun _ _ _ _ _ => rfl
  | setCutoffMaxWah v => exact wah ({ · with cutoffMax := v }) fun _ _ _ _ _ => rfl
  | setDampWah v => exact wah ({ · with damp := v }) fun _ _ _ _ _ => rfl
  | setEnabledFlng en => exact flng ({ · with en := en }) fun _ _ _ => rfl
  | setWetGammaFlng g => exact flng ({ · with wetGamma := g }) fun _ _ _ => rfl
  | setLfoFreqFlng v => exact flng ({ · with lfoFreq := v }) fun _ _ _ => rfl
  | setEnabledDist en => exact dist ({ · with en := en })
  | setWetGammaDist g => exact dist ({ · with wetGamma := g })
  | setBoostDist b => exact dist ({ · with boost := b })
  | setDistFuncDist code =>
    rw [exec, exec, execSetDistFuncDist, execSetDistFuncDist]
    split
    · exact h.respond _
    next f _ => exact dist ({ · with func := f })
  | setEnabledRvrb en => exact rvrb ({ · with en := en }) fun _ _ => rfl
  | setWetGammaRvrb g => exact rvrb ({ · with wetGamma := g }) fun _ _ => rfl
  | setCombModeRvrb m => exact rvrb (fun r => markDirty { r with combMode := m }) fun _ _ => rfl
  | setApModeRvrb m => exact rvrb (fun r => markDirty { r with apMode := m }) fun _ _ => rfl

/-- Every command: a `PROC` by its start and its loop. -/
theorem exec_same (i : Instr) {s t : State} (h : SameState s t) (hnum : s.cfg.num = .binary32)
    (hc : s.rvrb.combMode = .preset) (ha : s.rvrb.apMode = .preset) : SameOutcome (exec i s) (exec i t) := by
  cases hi : i.isProc with
  | false => exact exec_parameter_same hi h
  | true =>
    obtain ⟨u, n, sc, hsc, rfl⟩ := exists_procCommand hi
    obtain ⟨why, hs, ht⟩ | ⟨s₀, t₀, hs, ht, h₀⟩ := (started_same u h hc ha).cases
    · rw [exec_procCommand_of_error n sc hs, exec_procCommand_of_error n sc ht]
      rfl
    · rw [exec_procCommand_of_started n hsc hs, exec_procCommand_of_started n hsc ht]
      exact procLoop_same u sc n n ((started_reachesOnly hs).cfg ▸ hnum) h₀

/-- Settles O24: a step goes on with a `PROC`, waits, rejects or executes; each keeps states the same. -/
theorem presetBlockIsDeterministicUpToNaNPayloads : Obligations.PresetBlockIsDeterministicUpToNaNPayloads := by
  intro s t h hnum hc ha
  have hbusy := h.busy
  cases hs : s.busy with
  | some p =>
    cases ht : t.busy with
    | none => rw [hs, ht] at hbusy; cases hbusy
    | some q =>
      rw [hs, ht] at hbusy
      obtain ⟨hu, hsc, hn, hleft, hx⟩ := hbusy
      rw [step_of_busy hs, step_of_busy ht, procResume, procResume, ← hu, ← hsc, ← hn, ← hleft]
      exact procLoop_same _ _ _ _ hnum { h with in0 := List.rel_append hx h.in0 }
  | none =>
    cases ht : t.busy with
    | some q => rw [hs, ht] at hbusy; cases hbusy
    | none =>
    cases hw : s.cmds with
    | nil =>
      rw [(blockMakesNoStepWhileItWaits s).1 hs hw, (blockMakesNoStepWhileItWaits t).1 ht (h.cmds ▸ hw)]
      exact h
    | cons w ws =>
      have hw' : t.cmds = w :: ws := h.cmds ▸ hw
      have htake : SameState { s with cmds := ws } { t with cmds := ws } := { h with cmds := rfl }
      cases hd : decode w with
      | error cause =>
        rw [step_of_illegal hs hw hd, step_of_illegal ht hw' hd]
        exact htake.respond _
      | ok i =>
        rw [step_of_decoded hs hw hd, step_of_decoded ht hw' hd]
        exact exec_same i htake hnum hc ha

end Sys2Proof.Proofs
end

section
/-! PROOFS. The statements of spec/60_exceptions.md: where each fault can arise and that nothing is refused (R225), and
that a sound block never stops (R225, with R206 and R163). -/

namespace Sys2Proof.Proofs

open Sys2Proof Sys2Proof.Machine Sys2Proof.Claims

/-! ## Samples without a meaning (R163, R166) -/

theorem flngTap_eq_error {o : TapOrigin} {b : List F32} {freq : F32} {idx : Option Int} {why : NoMeaning}
    (h : flngTap o b freq idx = .error why) : why = .round ∨ why = .tapIndex := by
  unfold flngTap at h
  split at h
  · cases h; exact .inl rfl
  · split at h
    · split at h <;> cases h
      exact .inr rfl
    · cases h; exact .inr rfl

theorem flngFilter_eq_error {k : Nat} {cfg : Cfg} {f : Flng} {x : F32} {why : NoMeaning}
    (h : flngFilter k cfg f x = .error why) : why = .round ∨ why = .tapIndex := by
  unfold flngFilter at h
  simp only at h
  split at h
  next ht => cases h; exact flngTap_eq_error ht
  · cases h

theorem flngSample_eq_error {x : F32} {s : State} {why : NoMeaning} (h : flngSample x s = .error why) :
    why = .round ∨ why = .tapIndex := by
  unfold flngSample at h
  split at h
  next hf => cases h; exact flngFilter_eq_error hf
  · cases h

/-- Only the Flanger has samples without a meaning. -/
theorem unitSample_eq_error {u : UnitId} {e : Option F32} {x : F32} {s : State} {why : NoMeaning}
    (h : unitSample u e x s = .error why) : u = .flng ∧ (why = .round ∨ why = .tapIndex) := by
  cases u with
  | flng => exact ⟨rfl, flngSample_eq_error h⟩
  | sec | shlf | wah | dist | rvrb => cases h

theorem runSamples_eq_error {u : UnitId} {ps : List (Option F32 × F32)} {s : State} {why : NoMeaning}
    (h : runSamples u ps s = .error why) : u = .flng ∧ (why = .round ∨ why = .tapIndex) := by
  induction ps generalizing s with
  | nil => cases h
  | cons p ps ih =>
    obtain hu | ⟨s', y, -, hrest⟩ := runSamples_cons_eq_error.1 h
    · exact unitSample_eq_error hu
    · exact ih hrest

/-- Under binary32 the Flanger's samples have a meaning while its angle stays finite. -/
theorem exists_runSamples_flng {m : Nat} {s : State} (hnum : s.cfg.num = .binary32) (hf : s.flng.Ok s.cfg)
    (hcap : s.cfg.capmax < 2 ^ 24) (hangle : flngAngleFinite s s.in0.length) :
    ∃ r, runSamples .flng (samples false m s) s = .ok r := by
  have hlen : (s.in0.take m).length ≤ s.in0.length := List.length_take_le' _ _
  obtain ⟨f, ys, hfold⟩ := exists_foldE_flngFilter (s.in0.take m) hnum hf hcap fun k hk => hangle k (hk.trans_le hlen)
  exact ⟨_, runSamples_flng hfold⟩

/-! ## A rebuild without a meaning (R206) -/

theorem secOfDelay_eq_error {cfg : Cfg} {delay a b c : F32} {why : NoMeaning}
    (h : secOfDelay cfg delay a b c = .error why) : why = .round ∨ why = .sectionD := by
  unfold secOfDelay at h
  split at h
  · cases h; exact .inl rfl
  · split at h <;> cases h
    exact .inr rfl

theorem except_bind_eq_error {ε α β : Type} {a : Except ε α} {f : α → Except ε β} {why : ε} :
    (a >>= f) = .error why ↔ a = .error why ∨ ∃ v, a = .ok v ∧ f v = .error why := by
  cases a <;> simp [bind, Except.bind]

/-- A bank is made of seven sections; one of them has no meaning if the bank has none. -/
theorem buildBank_eq_error {cfg : Cfg} {cm am : Mode} {k : Nat} {why : NoMeaning}
    (h : buildBank cfg cm am k = .error why) : why = .round ∨ why = .sectionD := by
  simp only [buildBank, except_bind_eq_error] at h
  obtain h | ⟨_, -, h | ⟨_, -, h | ⟨_, -, h | ⟨_, -, h | ⟨_, -, h | ⟨_, -, h | ⟨_, -, h⟩⟩⟩⟩⟩⟩⟩ := h
  case inr.inr.inr.inr.inr.inr.inr => cases h
  all_goals exact secOfDelay_eq_error h

theorem rvrbRebuild_eq_error {s : State} {why : NoMeaning} (h : rvrbRebuild s = .error why) :
    why = .round ∨ why = .sectionD := by
  unfold rvrbRebuild at h
  split at h
  next hbank => cases h; exact buildBank_eq_error hbank
  · cases h

/-- Only the Reverb's start can have no meaning: that of a pending rebuild. -/
theorem started_eq_error {u : UnitId} {s : State} {why : NoMeaning} (h : started u s = .error why) :
    u = .rvrb ∧ s.rvrb.dirty = true ∧ rvrbRebuild s = .error why := by
  cases u with
  | rvrb =>
    simp only [started, rvrbRefresh] at h
    split at h
    next hd => exact ⟨rfl, hd, h⟩
    · cases h
  | sec | shlf | wah | flng | dist => cases h

/-! ## How a command can end (R225) -/

/-- The loop answers a next state, or meets a sample without a meaning among those there are. -/
theorem procLoop_cases (u : UnitId) (sc : Bool) (n left : Nat) (s : State) :
    (∃ t, procLoop u sc n left s = .next t) ∨
    (∃ m why, runSamples u (samples sc m s) s = .error why ∧ procLoop u sc n left s = .fault (faultOf why)) := by
  obtain ⟨m, hm, rest, rfl, hrest⟩ :
      ∃ m ≤ available sc s, ∃ rest, left = m + rest ∧ (rest = 0 ∨ m = available sc s) := by
    obtain hle | hle := Nat.le_total left (available sc s)
    · exact ⟨left, hle, 0, rfl, .inl rfl⟩
    · exact ⟨_, le_rfl, left - available sc s, (Nat.add_sub_of_le hle).symm, .inr rfl⟩
  obtain ⟨hfault, hnext⟩ := procLoop_samples u sc n rest (s := s) hm
  cases hrun : runSamples u (samples sc m s) s with
  | error why => exact .inr ⟨m, why, hrun, hfault why hrun⟩
  | ok r =>
    have hloop := hnext r.1 r.2 hrun
    cases rest with
    | zero => exact .inl ⟨_, hloop⟩
    | succ rest =>
      obtain rfl := hrest.resolve_left nofun
      exact .inl ⟨_, hloop.trans (procLoop_exhausted u sc n rest s r.1 r.2)⟩

/-- A command answers a next state, or is a `PROC` whose rebuild or one of whose samples has no meaning. -/
theorem exec_cases (i : Instr) (s : State) :
    (∃ t, exec i s = .next t) ∨
    (∃ n why, i = .procRvrb n ∧ s.rvrb.dirty = true ∧ rvrbRebuild s = .error why ∧
      exec i s = .fault (faultOf why)) ∨
    (∃ n m why, i = .procFlng n ∧ runSamples .flng (samples false m s) s = .error why ∧
      exec i s = .fault (faultOf why)) := by
  cases hi : i.isProc with
  | false =>
    obtain ⟨r, a, h, -⟩ := exec_local hi s
    exact .inl ⟨_, h⟩
  | true =>
    obtain ⟨u, n, sc, hsc, rfl⟩ := exists_procCommand hi
    cases hs : started u s with
    | error why =>
      obtain ⟨rfl, hd, hr⟩ := started_eq_error hs
      exact .inr (.inl ⟨n, why, rfl, hd, hr, exec_procCommand_of_error n sc hs⟩)
    | ok s₀ =>
      rw [exec_procCommand_of_started n hsc hs]
      obtain hnext | ⟨m, why, hrun, hfault⟩ := procLoop_cases u sc n n s₀
      · exact .inl hnext
      · obtain ⟨rfl, -⟩ := runSamples_eq_error hrun
        obtain rfl : sc = false := Bool.eq_false_of_not_eq_true fun h => nomatch hsc h
        cases hs
        exact .inr (.inr ⟨n, m, why, rfl, hrun, hfault⟩)

/-- Settles O22: by the ways a command can end; which faults a rebuild and a sample have, their own lemmas say. -/
theorem onlyFlangerAndReverbBlocksCanFault : Obligations.OnlyFlangerAndReverbBlocksCanFault := by
  intro i s
  obtain ⟨t, h⟩ | ⟨n, why, rfl, -, hrebuild, h⟩ | ⟨n, m, why, rfl, hrun, h⟩ := exec_cases i s <;> rw [h]
  · exact ⟨nofun, nofun⟩
  · refine ⟨nofun, fun r hr => .inr ⟨n, rfl, ?_⟩⟩
    cases hr
    exact (rvrbRebuild_eq_error hrebuild).imp (congrArg faultOf) (congrArg faultOf)
  · refine ⟨nofun, fun r hr => .inl ⟨n, rfl, ?_⟩⟩
    cases hr
    exact (runSamples_eq_error hrun).2.imp (congrArg faultOf) (congrArg faultOf)

/-! ## A sound block (R225, R206, R163) -/

/-- No command stops where a pending rebuild and the Flanger's samples have a meaning. -/
theorem exists_exec {s : State} (i : Instr) (hrebuild : s.rvrb.dirty = true → ∃ t, rvrbRebuild s = .ok t)
    (hflng : ∀ m, ∃ r, runSamples .flng (samples false m s) s = .ok r) : ∃ t, exec i s = .next t := by
  obtain h | ⟨n, why, -, hd, herr, -⟩ | ⟨n, m, why, -, herr, -⟩ := exec_cases i s
  · exact h
  · obtain ⟨t, ht⟩ := hrebuild hd
    cases herr.symm.trans ht
  · obtain ⟨r, hr⟩ := hflng m
    cases herr.symm.trans hr

/-- Nor does a `PROC` that goes on: a Flanger block holds without a waiting sample. -/
theorem exists_procResume {s : State} {p : Busy} (hp : p.Ok s)
    (hflng : ∀ m, ∃ r, runSamples .flng (samples false m s) s = .ok r) : ∃ t, procResume p s = .next t := by
  obtain h | ⟨m, why, herr, -⟩ :=
    procLoop_cases p.unit p.sc p.n p.left { s with in0 := p.x.toList ++ s.in0 }
  · exact h
  · obtain ⟨hu, -⟩ := runSamples_eq_error herr
    have hsc : p.sc = false := Bool.eq_false_of_not_eq_true fun h => nomatch hu.symm.trans (hp.side h)
    have hx : p.x = none := Option.not_isSome_iff_eq_none.1 fun h => nomatch hsc.symm.trans (hp.waiting h)
    obtain ⟨r, hr⟩ := hflng m
    rw [hu, hsc, hx] at herr
    cases herr.symm.trans hr

/-- Settles O23: a step goes on with a `PROC`, waits, rejects or executes; R206 gives a pending rebuild a meaning, the
finite angle the samples of the Flanger. -/
theorem soundBlockNeverStops : Obligations.SoundBlockNeverStops := by
  intro s hnum hs hsafe hangle
  have hcap := capmax_of_cfgSizesOk hs.cfg
  cases hb : s.busy with
  | some p =>
    rw [step_of_busy hb]
    exact exists_procResume (hs.busy p hb) fun m => exists_runSamples_flng hnum hs.flng hcap hangle
  | none =>
    cases hc : s.cmds with
    | nil => exact ⟨s, (blockMakesNoStepWhileItWaits s).1 hb hc⟩
    | cons w ws =>
      cases hd : decode w with
      | error cause => exact ⟨_, step_of_illegal hb hc hd⟩
      | ok i =>
        rw [step_of_decoded hb hc hd]
        refine exists_exec i (fun hdirty => ?_) fun m => ?_
        · exact rebuildSucceedsWhateverIsDrawn { s with cmds := ws } hs.cfg (hsafe hdirty)
        · exact exists_runSamples_flng (s := { s with cmds := ws }) hnum hs.flng hcap hangle

end Sys2Proof.Proofs
end

section
/-! PROOFS. The statements of spec/70_reset_and_hazards.md: a disabled unit runs on as an enabled one does (R249). -/

namespace Sys2Proof.Proofs

open Sys2Proof Sys2Proof.Machine Sys2Proof.Claims

/-! ## A block run with the unit enabled instead (R249) -/

/-- `s` with unit `u` enabled and the output stream `out`. `DIST` keeps its bit: its datapath runs only where it is set
(R183). -/
def withEnabled (u : UnitId) (out : List F32) (s : State) : State :=
  { s with
    shlf := if u = .shlf then { s.shlf with en := true } else s.shlf
    wah := if u = .wah then { s.wah with en := true } else s.wah
    flng := if u = .flng then { s.flng with en := true } else s.flng
    rvrb := if u = .rvrb then { s.rvrb with en := true } else s.rvrb
    out := out }

/-- The Flanger's datapath does not read its enable bit (R164). -/
theorem flngFilter_of_en {k : Nat} {cfg : Cfg} {f g : Flng} {x y : F32} (en : Bool)
    (h : flngFilter k cfg f x = .ok (g, y)) :
    flngFilter k cfg { f with en := en } x = .ok ({ g with en := en }, y) := by
  cases htap : flngTap cfg.tapOrigin f.buf f.lfoFreq
      (flngIndex (numOf cfg) (k + 6) f.cap (flngLfoNext (numOf cfg) k cfg.fs f).2) with
  | error why => cases (flngFilter_of_tap_error x htap).symm.trans h
  | ok wet =>
    cases (flngFilter_of_tap x htap).symm.trans h
    exact flngFilter_of_tap (f := { f with en := en }) x htap

/-- An enabled unit's sample moves the registers alike; only what it answers may differ (R128, R144, R164, R212). -/
theorem unitSample_withEnabled {u : UnitId} {e : Option F32} {x y : F32} {s t : State} (out : List F32)
    (h : unitSample u e x s = .ok (t, y)) :
    ∃ y', unitSample u e x (withEnabled u out s) = .ok (withEnabled u out t, y') := by
  cases u with
  | sec | shlf | rvrb => cases h; exact ⟨_, rfl⟩
  | wah => cases h; cases e <;> exact ⟨_, rfl⟩
  | flng =>
    obtain ⟨f, w, hf, rfl, -⟩ := flngSample_eq_ok.1 h
    exact ⟨w, flngSample_eq_ok.2 ⟨_, w, flngFilter_of_en true hf, rfl, rfl⟩⟩
  | dist =>
    obtain rfl : (distSample x s).1 = t := congrArg Prod.fst (Except.ok.inj h)
    refine ⟨_, congrArg Except.ok (Prod.ext ?_ rfl)⟩
    rw [distSample_state, distSample_state]
    rfl

/-- The rebuild before the first sample does not read the enable bit either (R205). -/
theorem started_withEnabled {u : UnitId} {s s₀ : State} (out : List F32) (h : started u s = .ok s₀) :
    started u (withEnabled u out s) = .ok (withEnabled u out s₀) := by
  cases u with
  | rvrb =>
    obtain ⟨hdirty, hrebuild⟩ | ⟨hclean, rfl⟩ := started_rvrb.1 h
    · obtain ⟨bank, hbank, rfl⟩ := rvrbRebuild_eq_ok.1 hrebuild
      exact started_rvrb.2 (.inl ⟨hdirty, rvrbRebuild_eq_ok.2 ⟨bank, hbank, rfl⟩⟩)
    · exact started_rvrb.2 (.inr ⟨hclean, rfl⟩)
  | sec | shlf | wah | flng | dist => cases h; rfl

/-- The loop finds the same samples and holds at the same place; the streams pushed to may differ. -/
theorem procLoop_withEnabled {u : UnitId} {sc : Bool} {n left : Nat} {s t : State} (out : List F32)
    (h : procLoop u sc n left s = .next t) :
    ∃ out', procLoop u sc n left (withEnabled u out s) = .next (withEnabled u out' t) := by
  induction left generalizing s out with
  | zero => cases h; exact ⟨out, rfl⟩
  | succ left ih =>
    obtain h0 | ⟨x, xs, h0, rfl, h1⟩ | ⟨x, xs, e, es, h0, hsc, h1⟩ := nextSample_cases sc s
    · cases (procLoop_empty u sc n left h0).symm.trans h
      exact ⟨out, procLoop_empty u sc n left (s := withEnabled u out s) h0⟩
    · cases (procLoop_empty_side u n left h0 h1).symm.trans h
      exact ⟨out, procLoop_empty_side u n left (s := withEnabled u out s) h0 h1⟩
    · cases hu : unitSample u e x s with
      | error why => cases (procLoop_sample_error n left s h0 hsc h1 hu).symm.trans h
      | ok r =>
        obtain ⟨y, hy⟩ := unitSample_withEnabled out hu
        obtain ⟨out', hrest⟩ := ih (out ++ [y]) ((procLoop_sample n left s h0 hsc h1 hu).symm.trans h)
        exact ⟨out', (procLoop_sample n left _ (q := withEnabled u out s) h0 hsc h1 hy).trans hrest⟩

/-- A `PROC` run with its unit enabled instead ends in the same state but for the enable bit and the output stream. -/
theorem exec_procCommand_withEnabled {u : UnitId} {n : Nat} {sc : Bool} {s a b : State} (out : List F32)
    (hsc : sc = true → u = .wah) (ha : exec (procCommand u n sc) s = .next a)
    (hb : exec (procCommand u n sc) (withEnabled u out s) = .next b) :
    withEnabled u [] a = { b with out := [] } := by
  obtain ⟨s₀, hs, hloop⟩ := exec_procCommand_eq_next hsc ha
  obtain ⟨out', hloop'⟩ := procLoop_withEnabled out hloop
  rw [exec_procCommand_of_started n hsc (started_withEnabled out hs), hloop'] at hb
  cases hb
  rfl

/-- Settles O25: each clause is the general one, with a side-chain on `WAH` only. -/
theorem disabledUnitsKeepRunning : Obligations.DisabledUnitsKeepRunning := by
  intro n sc s a b
  exact ⟨exec_procCommand_withEnabled (u := .shlf) (sc := false) s.out nofun,
    exec_procCommand_withEnabled (u := .wah) s.out fun _ => rfl,
    exec_procCommand_withEnabled (u := .flng) (sc := false) s.out nofun,
    exec_procCommand_withEnabled (u := .rvrb) (sc := false) s.out nofun⟩

end Sys2Proof.Proofs
end
